-- ==== Sys2Proof/Word.lean ====
section
/-! DEFINITION. The bit-vector types of the hardware: bytes, 16-bit words, and the narrower
instruction fields (spec/00_scope.md R8, R10). -/

namespace Sys2Proof

/-- A memory byte or general register (R21, R30). -/
abbrev Byte := BitVec 8

/-- An opcode word, `I`, `PC` or a stack slot (R24, R27, R28, R90). -/
abbrev Word := BitVec 16

/-- Half a byte: one hexadecimal digit of an opcode (R8). -/
abbrev Nibble := BitVec 4

/-- The 12-bit address field `nnn` (R10). -/
abbrev Addr12 := BitVec 12

end Sys2Proof
end

