-- ==== Sys2Proof/WellFormed.lean ====
section
/-! DEFINITION. Which instruction terms stand for a word of their own class (spec/30_encoding.md R94,
R97). Register indices, immediates and row counts are legal at every value (R93); the two checks are
that SYS does not hold the words of CLS and RET, and that UNRECOGNIZED holds a word of its class. -/

namespace Sys2Proof

/-- The function codes of format `XY` under major opcode 8 that no row has (R97). -/
def unusedAluCodes : List Nibble := [0x8, 0x9, 0xA, 0xB, 0xC, 0xD, 0xF]

/-- The function codes of format `X` under major opcode E (R96). -/
def keyCodes : List Byte := [0x9E, 0xA1]

/-- The function codes of format `X` under major opcode F (R96). -/
def miscCodes : List Byte := [0x07, 0x0A, 0x15, 0x18, 0x1E, 0x29, 0x33, 0x55, 0x65]

/-- The UNRECOGNIZED class as R97 lists it: `5xyN` and `9xyN` with `N != 0`, the unused codes of `8xyN`,
`ExNN` and `FxNN` with no listed `NN`; no word of any other major opcode. -/
def isUnrecognizedWord (w : Word) : Bool :=
  match (w.extractLsb' 12 4).toNat with
  | 0x5 | 0x9 => w.extractLsb' 0 4 != 0
  | 0x8 => unusedAluCodes.contains (w.extractLsb' 0 4)
  | 0xE => !keyCodes.contains (w.extractLsb' 0 8)
  | 0xF => !miscCodes.contains (w.extractLsb' 0 8)
  | _ => false

/-- The instruction terms the decoder can give. -/
def Instr.wf : Instr → Bool
  | .sys nnn => nnn != 0x0E0 && nnn != 0x0EE
  | .unrecognized w => isUnrecognizedWord w
  | .cls | .ret | .jp _ | .call _ | .seImm _ _ | .sneImm _ _ | .seReg _ _ | .ldImm _ _
  | .addImm _ _ | .ldReg _ _ | .or _ _ | .and _ _ | .xor _ _ | .addReg _ _ | .sub _ _ | .shr _ _
  | .subn _ _ | .shl _ _ | .sneReg _ _ | .ldI _ | .jpV0 _ | .rnd _ _ | .drw _ _ _ | .skp _
  | .sknp _ | .ldVxDt _ | .ldVxK _ | .ldDtVx _ | .ldStVx _ | .addI _ | .ldF _ | .ldB _
  | .ldMemVx _ | .ldVxMem _ => true

end Sys2Proof
end

