-- ==== Sys2Proof/Decode.lean ====
section
/-! DEFINITION. The decoder of spec/30_encoding.md R94 and R96 (first row whose mask and pattern match),
its byte-level form (high byte first, spec/20_memory.md R66), and the encoder, written from the same
format table (R91, R92). -/

namespace Sys2Proof

/-! ### Fields (R92) -/

/-- `x = op[11:8]`. -/
def fieldX (w : Word) : RegIdx := ⟨(w.extractLsb' 8 4).toNat, BitVec.isLt _⟩

/-- `y = op[7:4]`. -/
def fieldY (w : Word) : RegIdx := ⟨(w.extractLsb' 4 4).toNat, BitVec.isLt _⟩

/-- `n = op[3:0]`. -/
def fieldN (w : Word) : Fin 16 := ⟨(w.extractLsb' 0 4).toNat, BitVec.isLt _⟩

/-- `kk = op[7:0]`. -/
def fieldKK (w : Word) : Byte := w.extractLsb' 0 8

/-- `nnn = op[11:0]`. -/
def fieldNNN (w : Word) : Addr12 := w.extractLsb' 0 12

/-! ### The opcode map (R96) -/

/-- One row of the opcode map: it takes the words with `word &&& mask = pattern`. -/
structure OpcodeRow where
  mask : Word
  pattern : Word
  build : Word → Instr

/-- The rows with `x`, `y` operands only. -/
def OpcodeRow.xy (pattern : Word) (build : RegIdx → RegIdx → Instr) : OpcodeRow :=
  ⟨0xF00F, pattern, fun w => build (fieldX w) (fieldY w)⟩

/-- The rows with `x`, `kk` operands. -/
def OpcodeRow.xkk (pattern : Word) (build : RegIdx → Byte → Instr) : OpcodeRow :=
  ⟨0xF000, pattern, fun w => build (fieldX w) (fieldKK w)⟩

/-- The rows with an `nnn` operand. -/
def OpcodeRow.nnn (pattern : Word) (build : Addr12 → Instr) : OpcodeRow :=
  ⟨0xF000, pattern, fun w => build (fieldNNN w)⟩

/-- The rows with an `x` operand and an 8-bit function code. -/
def OpcodeRow.x (pattern : Word) (build : RegIdx → Instr) : OpcodeRow :=
  ⟨0xF0FF, pattern, fun w => build (fieldX w)⟩

/-- Rows 1 to 10. -/
def opcodeRowsLow : List OpcodeRow :=
  [⟨0xFFFF, 0x00E0, fun _ => .cls⟩, ⟨0xFFFF, 0x00EE, fun _ => .ret⟩,
   .nnn 0x0000 .sys, .nnn 0x1000 .jp, .nnn 0x2000 .call,
   .xkk 0x3000 .seImm, .xkk 0x4000 .sneImm, .xy 0x5000 .seReg,
   .xkk 0x6000 .ldImm, .xkk 0x7000 .addImm]

/-- Rows 11 to 19. -/
def opcodeRowsAlu : List OpcodeRow :=
  [.xy 0x8000 .ldReg, .xy 0x8001 .or, .xy 0x8002 .and, .xy 0x8003 .xor, .xy 0x8004 .addReg,
   .xy 0x8005 .sub, .xy 0x8006 .shr, .xy 0x8007 .subn, .xy 0x800E .shl]

/-- Rows 20 to 24. -/
def opcodeRowsMid : List OpcodeRow :=
  [.xy 0x9000 .sneReg, .nnn 0xA000 .ldI, .nnn 0xB000 .jpV0, .xkk 0xC000 .rnd,
   ⟨0xF000, 0xD000, fun w => .drw (fieldX w) (fieldY w) (fieldN w)⟩]

/-- Rows 25 to 35. -/
def opcodeRowsHigh : List OpcodeRow :=
  [.x 0xE09E .skp, .x 0xE0A1 .sknp, .x 0xF007 .ldVxDt, .x 0xF00A .ldVxK, .x 0xF015 .ldDtVx,
   .x 0xF018 .ldStVx, .x 0xF01E .addI, .x 0xF029 .ldF, .x 0xF033 .ldB, .x 0xF055 .ldMemVx,
   .x 0xF065 .ldVxMem]

/-- Rows 1 to 35 in decoding order; row 36 is the decoder's fall-through. -/
def opcodeRows : List OpcodeRow :=
  opcodeRowsLow ++ opcodeRowsAlu ++ opcodeRowsMid ++ opcodeRowsHigh

/-- The decoder: total on words, the first matching row wins, else UNRECOGNIZED (R94). -/
def decode (w : Word) : Instr :=
  match opcodeRows.find? (fun row => w &&& row.mask == row.pattern) with
  | some row => row.build w
  | none => .unrecognized w

/-- Why bytes give no instruction. No word is refused (R95, R100). -/
inductive DecodeError where
  /-- Fewer than two bytes are left. Raised by `decodeBytes`; safe. -/
  | truncated
deriving DecidableEq, Repr

/-- The decoder on bytes in address order, high byte first (R66, R90): the instruction and the bytes
after it. -/
def decodeBytes : List Byte → Except DecodeError (Instr × List Byte)
  | hi :: lo :: rest => .ok (decode (hi ++ lo), rest)
  | [_] => .error .truncated
  | [] => .error .truncated

/-! ### The encoder (R91) -/

/-- The four bits of a register index. -/
def regBits (x : RegIdx) : Nibble := BitVec.ofNat 4 x.val

/-- Format `NNN`. -/
def wordNNN (major : Nibble) (nnn : Addr12) : Word := major ++ nnn

/-- Format `XKK`. -/
def wordXKK (major : Nibble) (x : RegIdx) (kk : Byte) : Word := (major ++ regBits x ++ kk : BitVec (4 + 4 + 8))

/-- Formats `XY` and `XYN`. -/
def wordXYN (major : Nibble) (x y : RegIdx) (n : Nibble) : Word :=
  (major ++ regBits x ++ regBits y ++ n : BitVec (4 + 4 + 4 + 4))

/-- The word of an instruction. -/
def encode : Instr → Word
  | .cls => 0x00E0
  | .ret => 0x00EE
  | .sys nnn => wordNNN 0x0 nnn
  | .jp nnn => wordNNN 0x1 nnn
  | .call nnn => wordNNN 0x2 nnn
  | .seImm x kk => wordXKK 0x3 x kk
  | .sneImm x kk => wordXKK 0x4 x kk
  | .seReg x y => wordXYN 0x5 x y 0x0
  | .ldImm x kk => wordXKK 0x6 x kk
  | .addImm x kk => wordXKK 0x7 x kk
  | .ldReg x y => wordXYN 0x8 x y 0x0
  | .or x y => wordXYN 0x8 x y 0x1
  | .and x y => wordXYN 0x8 x y 0x2
  | .xor x y => wordXYN 0x8 x y 0x3
  | .addReg x y => wordXYN 0x8 x y 0x4
  | .sub x y => wordXYN 0x8 x y 0x5
  | .shr x y => wordXYN 0x8 x y 0x6
  | .subn x y => wordXYN 0x8 x y 0x7
  | .shl x y => wordXYN 0x8 x y 0xE
  | .sneReg x y => wordXYN 0x9 x y 0x0
  | .ldI nnn => wordNNN 0xA nnn
  | .jpV0 nnn => wordNNN 0xB nnn
  | .rnd x kk => wordXKK 0xC x kk
  | .drw x y n => wordXYN 0xD x y (BitVec.ofNat 4 n.val)
  | .skp x => wordXKK 0xE x 0x9E
  | .sknp x => wordXKK 0xE x 0xA1
  | .ldVxDt x => wordXKK 0xF x 0x07
  | .ldVxK x => wordXKK 0xF x 0x0A
  | .ldDtVx x => wordXKK 0xF x 0x15
  | .ldStVx x => wordXKK 0xF x 0x18
  | .addI x => wordXKK 0xF x 0x1E
  | .ldF x => wordXKK 0xF x 0x29
  | .ldB x => wordXKK 0xF x 0x33
  | .ldMemVx x => wordXKK 0xF x 0x55
  | .ldVxMem x => wordXKK 0xF x 0x65
  | .unrecognized w => w

/-- The high byte of a word, at the lower address (R66). -/
def highByte (w : Word) : Byte := w.extractLsb' 8 8

/-- The low byte of a word, at the higher address (R66). -/
def lowByte (w : Word) : Byte := w.extractLsb' 0 8

/-- A word's two bytes in address order. -/
def wordBytes (w : Word) : List Byte := [highByte w, lowByte w]

/-- An instruction's two bytes in address order. -/
def encodeBytes (i : Instr) : List Byte := wordBytes (encode i)

/-- The word the low `nbits` bits of `w` are, bits above them 0 (every instruction is one 16-bit word,
so the table's numbering is the word's own). -/
def tableWord (nbits w : Nat) : Word := BitVec.ofNat 16 (w % 2 ^ nbits)

/-- The instruction the decoder reads from a word of spec/opcode_table.json, laid out in memory order;
no instruction is longer than 16 bits (R90). -/
def decodeTableWord (nbits w : Nat) : Option Instr :=
  if nbits ≤ 16 then
    match decodeBytes (wordBytes (tableWord nbits w)) with
    | .ok (i, _) => some i
    | .error _ => none
  else none

end Sys2Proof
end

