-- ==== Sys2Proof/Config.lean ====
section
/-! DEFINITION. The fixed parameters of spec/00_scope.md R6, and the free value of R7: the bytes the
Random capability returns where nothing has fixed them. -/

namespace Sys2Proof

/-- `MEM_SIZE`: bytes of memory. -/
@[simp] abbrev Config.memSize : Nat := 4096

/-- `FONT_BASE`: first byte of the font table. -/
@[simp] abbrev Config.fontBase : Nat := 0

/-- `FONT_SIZE`: 16 glyphs of 5 bytes. -/
@[simp] abbrev Config.fontSize : Nat := 80

/-- Bytes per glyph (R31). -/
@[simp] abbrev Config.glyphBytes : Nat := 5

/-- `PROG_BASE`: load address and reset value of PC. -/
@[simp] abbrev Config.progBase : Nat := 0x200

/-- `PROG_MAX`: largest loadable program in bytes. -/
@[simp] abbrev Config.progMax : Nat := 3584

/-- `FETCH_LIMIT`: a fetch needs `PC < 4094` (R66, taken literally: log 6). -/
@[simp] abbrev Config.fetchLimit : Nat := 4094

/-- `NREGS`, the number of general registers. -/
@[simp] abbrev Config.nRegs : Nat := 16

/-- `STACK_DEPTH`, return-address slots. -/
@[simp] abbrev Config.stackDepth : Nat := 16

/-- `DISP_W`, pixels in a row. -/
@[simp] abbrev Config.dispW : Nat := 64

/-- `DISP_H`, rows. -/
@[simp] abbrev Config.dispH : Nat := 32

/-- `NKEYS`, key flags. -/
@[simp] abbrev Config.nKeys : Nat := 16

/-- `SPRITE_W`, pixels in a sprite row. -/
@[simp] abbrev Config.spriteW : Nat := 8

/-- FREE VALUE (R7, R175, D27; log 3): the byte the Random capability returns at its draw number
`n`, counted from 0, where `State.rnd` fixes none. It has no body: nothing can be proved of it. -/
opaque Config.rnd : Nat → Byte

end Sys2Proof
end

