-- ==== Sys2Proof/Machine/State.lean ====
section
/-! DEFINITION. The architectural state (spec/10_state.md R20) as plain data, the reasons a step can
stop, and the state after reset (R44). Field names are the spec's. -/

namespace Sys2Proof.Machine

/-- The five fault causes (spec/60_exceptions.md R220). Entering Halted is a NEXT state that the spec
describes (R226), so a cause is recorded in `State.halt` by `State.raise`; no step of this model
answers `Outcome.fault` (R120 calls the cycle total; log 5). -/
inductive Fault where
  /-- R221. Recorded by CALL with 16 entries on the stack; safe (the source names this condition). -/
  | stackOverflow
  /-- R222. Recorded by RET with an empty stack; safe (the source names this condition). -/
  | stackUnderflow
  /-- R223. Recorded by the fetch of a Running cycle with `PC >= 4094`; safe (log 6). -/
  | fetchBounds
  /-- R224. Recorded by DRW, LD B, LD [I] and LD Vx,[I] when an address is above 4095; safe. -/
  | dataBounds
  /-- R225. Recorded by SKP, SKNP and LD F when the digit is above 15; safe (log 7). -/
  | digitRange
deriving DecidableEq, Repr

/-- Why the model itself would not run an instruction. -/
inductive Refusal where
  /-- Raised by an arm of `exec` for an instruction that has no meaning yet; safe. No arm does. -/
  | notModelled (mnemonic : String)
deriving DecidableEq, Repr

/-- The halt record (R41, R226): the diagnostic (PC, opcode, stack depth) with the cause and the
offending address that the spec adds. -/
structure HaltRecord where
  cause : Fault
  pc : Word
  opcode : Word
  depth : Fin 17
  addr : Word
deriving DecidableEq, Repr

/-- The alphabet of the audio output: `begin_tone` alone (R245). -/
inductive AudioEvent where
  | beginTone
deriving DecidableEq, Repr

/-- The 4096 bytes (R30): the preloaded font (the parameter FONT, logs 1 and 2), and the cells that
differ from the reset contents, addresses strictly rising (`Memory.wf`). -/
structure Memory where
  font : Vector Byte Config.fontSize
  cells : List Host.Cell
deriving DecidableEq, Repr

/-- 32 rows of 64 pixels, row 0 at the top, column 0 at the left; `true` is lit (R34). -/
abbrev Framebuffer := Vector (Vector Bool Config.dispW) Config.dispH

/-- The complete state of R20, and three fields of the model's own: `rnd` and `drawn` (the Random
capability, a parameter of the step; log 3) and `audio` (the output trace; log 4). -/
structure State where
  /-- memory, R30 -/
  mem : Memory
  /-- V0 to VF, R21 -/
  V : Vector Byte Config.nRegs
  /-- index register, R27 -/
  I : Word
  /-- program counter, R24 -/
  PC : Word
  /-- return addresses, R28 -/
  stack : Vector Word Config.stackDepth
  /-- number of valid stack entries, 0 to 16, R28 -/
  SP : Fin 17
  /-- delay timer, R32 -/
  DT : Byte
  /-- sound timer, R33 -/
  ST : Byte
  /-- framebuffer, R34 -/
  fb : Framebuffer
  /-- needs-redraw flag, R37 -/
  dirty : Bool
  /-- key latch, R36 -/
  key : Vector Bool Config.nKeys
  /-- the register a key wait will write, R38 -/
  wait : Option RegIdx
  /-- the halt record, R41 -/
  halt : Option HaltRecord
  /-- the model's own: bytes the Random capability is fixed to return next, R175 -/
  rnd : List Byte
  /-- the model's own: how many bytes the Random capability has returned -/
  drawn : Nat
  /-- the model's own: the audio events emitted so far, oldest first, R40 -/
  audio : List AudioEvent
deriving DecidableEq, Repr

/-- The state after construct and after reset (R44, R260), with FONT at its default (log 1). Memory
lists nothing: every byte reads as its reset contents. -/
def State.reset : State where
  mem := { font := defaultFont, cells := [] }
  V := Vector.replicate _ 0
  I := 0
  PC := BitVec.ofNat 16 Config.progBase
  stack := Vector.replicate _ 0
  SP := 0
  DT := 0
  ST := 0
  fb := Vector.replicate _ (Vector.replicate _ false)
  dirty := false
  key := Vector.replicate _ false
  wait := none
  halt := none
  rnd := []
  drawn := 0
  audio := []

end Sys2Proof.Machine
end

