-- ==== Sys2Proof/Machine/Ops.lean ====
section
/-! DEFINITION. The named operations over memory, registers, the program counter, the timers and the
Random capability (spec/20_memory.md, spec/40_engine_cycle.md R126, R127), fault entry and the only way
back from it (spec/60_exceptions.md R226, R229). -/

namespace Sys2Proof.Machine

/-! ### Memory -/

/-- What an address reads as where no cell is listed: the reset contents of R44, the font at 0x000 to
0x04F and zero above. -/
def Memory.unlisted (m : Memory) (a : Nat) : Byte :=
  if h : a < Config.fontSize then m.font[a] else 0

/-- The byte listed for an address. -/
def lookupCell : List Host.Cell → Nat → Option Byte
  | [], _ => none
  | (k, b) :: rest, a => if k = a then some b else lookupCell rest a

/-- Lists a byte for an address, in address order. -/
def insertCell (a : Nat) (b : Byte) : List Host.Cell → List Host.Cell
  | [] => [(a, b)]
  | (k, c) :: rest =>
    if a < k then (a, b) :: (k, c) :: rest
    else if a = k then (a, b) :: rest
    else (k, c) :: insertCell a b rest

/-- Lists nothing for an address. -/
def eraseCell (a : Nat) (cells : List Host.Cell) : List Host.Cell :=
  cells.filter (fun c => c.1 != a)

/-- `mem[a]`. -/
def Memory.read (m : Memory) (a : Nat) : Byte := (lookupCell m.cells a).getD (m.unlisted a)

/-- `mem[a] <- b`, keeping the canonical form. -/
def Memory.write (m : Memory) (a : Nat) (b : Byte) : Memory :=
  { m with cells := if b = m.unlisted a then eraseCell a m.cells else insertCell a b m.cells }

/-- `mem[a + j] <- bs[j]` at ascending addresses (R62). -/
def Memory.writeRun (m : Memory) : Nat → List Byte → Memory
  | _, [] => m
  | a, b :: bs => Memory.writeRun (m.write a b) (a + 1) bs

/-- The canonical form: addresses strictly rising and inside the 4096 bytes, and no cell equal to what
an unlisted address reads as. -/
abbrev Memory.wf (m : Memory) : Prop :=
  m.cells.Pairwise (fun c d => c.1 < d.1) ∧
    ∀ c ∈ m.cells, c.1 < Config.memSize ∧ c.2 ≠ m.unlisted c.1

/-- `mem[a]` of the state. The range checks of MemRead and MemWrite (R63, R64) are made for a whole
instruction at once, before anything changes (R69): `State.dataFault?`. -/
def State.byteAt (s : State) (a : Nat) : Byte := s.mem.read a

/-- The state after the bytes of one instruction's stores. -/
def State.storeRun (s : State) (a : Nat) (bs : List Byte) : State :=
  { s with mem := s.mem.writeRun a bs }

/-! ### Fetch -/

/-- Whether an instruction can be fetched at this address (R66; the literal bound, log 6). -/
def fetchable (pc : Word) : Bool := decide (pc.toNat < Config.fetchLimit)

/-- `Fetch(PC)`: two bytes, the high one first; none where FetchBounds is raised (R66). -/
def State.fetch? (s : State) : Option Word :=
  if fetchable s.PC then some (s.byteAt s.PC.toNat ++ s.byteAt (s.PC.toNat + 1)) else none

/-! ### Registers and program counter -/

/-- `V[x]`. -/
def State.reg (s : State) (x : RegIdx) : Byte := s.V[x]

/-- `V[x] <- b`. -/
def State.setReg (s : State) (x : RegIdx) (b : Byte) : State := { s with V := s.V.set x b }

/-- `next`: `PC <- PC +_16 2` (R9). -/
def State.next (s : State) : State := { s with PC := s.PC + 2 }

/-- `skip`: `PC <- PC +_16 4` (R9). -/
def State.skip (s : State) : State := { s with PC := s.PC + 4 }

/-- `if c then skip else next`, the common contract of spec/42_skip.md. -/
def State.skipIf (s : State) (c : Bool) : State := if c then s.skip else s.next

/-- `PC <- target`. -/
def State.jump (s : State) (target : Word) : State := { s with PC := target }

/-! ### Fault entry and reset -/

/-- The cause codes of R220 (D4: the numbers are the spec's own). -/
def Fault.code : Fault → Nat
  | .stackOverflow => 1
  | .stackUnderflow => 2
  | .fetchBounds => 3
  | .dataBounds => 4
  | .digitRange => 5

/-- `raise`: fault entry (R226). The record is written and nothing else changes. -/
def State.raise (s : State) (cause : Fault) (opcode addr : Word) : State :=
  { s with halt := some { cause := cause, pc := s.PC, opcode := opcode, depth := s.SP, addr := addr } }

/-- The host's reset, the only way out of Halted (R229, R260): the reset state, with the bound
capabilities, the parameter FONT and the audio trace already emitted kept. -/
def State.hostReset (s : State) : State :=
  { State.reset with
    mem := { font := s.mem.font, cells := [] }, rnd := s.rnd, drawn := s.drawn, audio := s.audio }

/-! ### Timers and audio -/

/-- `emit begin_tone` (R9). -/
def State.emitTone (s : State) : State := { s with audio := s.audio ++ [AudioEvent.beginTone] }

/-- The tick of the delay channel (R126). -/
def State.tickDelay (s : State) : State := { s with DT := if s.DT = 0 then 0 else s.DT - 1 }

/-- The tick of the sound channel (R127). -/
def State.tickSound (s : State) : State :=
  if s.ST = 1 then { s.emitTone with ST := 0 }
  else { s with ST := if s.ST = 0 then 0 else s.ST - 1 }

/-- One tick of both timers (R122 step 5). -/
def State.tick (s : State) : State := s.tickDelay.tickSound

/-! ### Random -/

/-- The byte the Random capability returns next (R175, R246): a fixed one if there is one, else the
free value (log 3). -/
def State.randomByte (s : State) : Byte :=
  match s.rnd with
  | b :: _ => b
  | [] => Config.rnd s.drawn

/-- The state after one byte has been drawn. -/
def State.drawRandom (s : State) : State := { s with rnd := s.rnd.tail, drawn := s.drawn + 1 }

/-! ### Key latch -/

/-- The least pressed key (R123). -/
def lowestKey (key : Vector Bool Config.nKeys) : Option RegIdx :=
  (List.finRange 16).find? (fun k => key[k])

end Sys2Proof.Machine
end

