-- ==== Sys2Proof/Machine/Flags.lean ====
section
/-! DEFINITION. The flag computations (spec/10_state.md R22, R23, R47): VF is the only condition code,
each flag is computed from the operands at the start of the cycle, and the flag write comes after the
result write. -/

namespace Sys2Proof.Machine

/-- `FLAG_REG`, register 15 (R6). -/
def flagReg : RegIdx := 15

/-- A flag as the byte 0 or 1 (R22). -/
def flagByte (f : Bool) : Byte := if f then 1 else 0

/-- Carry-out of `a + b` (R167). -/
def carryOut (a b : Byte) : Bool := decide (a.toNat + b.toNat > 255)

/-- No borrow in `a - b` (R168, R170). -/
def noBorrow (a b : Byte) : Bool := decide (a.toNat ≥ b.toNat)

/-- The bit a right shift moves out (R169). -/
def rightShiftOut (a : Byte) : Bool := a.getLsbD 0

/-- The bit a left shift moves out (R171). -/
def leftShiftOut (a : Byte) : Bool := a.getLsbD 7

/-- `V[15] <- flag`. -/
def State.setFlag (s : State) (f : Bool) : State := s.setReg flagReg (flagByte f)

/-- `V[x] <- result`, then `V[15] <- flag`: with `x = 15` the flag wins (R23, R172; log 11). -/
def State.setResultFlag (s : State) (x : RegIdx) (result : Byte) (f : Bool) : State :=
  (s.setReg x result).setFlag f

end Sys2Proof.Machine
end

