-- ==== Sys2Proof/Machine/Operands.lean ====
section
/-! DEFINITION. The operand forms (spec/00_scope.md R10, spec/30_encoding.md R93): zero-extended
immediates, hex-digit operands, decimal digits, and memory at `I` with an ascending byte offset
(spec/44_index_memory.md header). -/

namespace Sys2Proof.Machine

/-- `zext_16(nnn)` (R93). -/
def addrOperand (nnn : Addr12) : Word := nnn.setWidth 16

/-- `zext_16(v)` of a byte (R8). -/
def byteOperand (b : Byte) : Word := b.setWidth 16

/-- A register value used as a hex digit 0 to F; none where DigitRange is raised (R225). -/
def digit? (b : Byte) : Option RegIdx :=
  if h : b.toNat < 16 then some ⟨b.toNat, h⟩ else none

/-- Where the glyph of a digit starts (R182). -/
def glyphAddr (d : RegIdx) : Word := BitVec.ofNat 16 (Config.fontBase + Config.glyphBytes * d.val)

/-- The hundreds, tens and ones digit of a byte (R183). -/
def decimalDigits (a : Byte) : List Byte :=
  [BitVec.ofNat 8 (a.toNat / 100), BitVec.ofNat 8 (a.toNat / 10 % 10), BitVec.ofNat 8 (a.toNat % 10)]

/-- The effective address of byte `j` of a data access: `I + j`, without wrap-around. -/
def State.dataAddr (s : State) (j : Nat) : Nat := s.I.toNat + j

/-- The check an instruction that touches `count` bytes at `I` makes before it changes anything (R69):
the lowest out-of-range address, `max(I, 4096)`, if the highest one exceeds 4095; none if all are in
range. -/
def State.dataFault? (s : State) (count : Nat) : Option Word :=
  if 0 < count ∧ Config.memSize ≤ s.dataAddr (count - 1) then
    some (BitVec.ofNat 16 (max s.I.toNat Config.memSize))
  else none

/-- `V[0]` to `V[x]`, the bytes LD [I],Vx stores (R185). -/
def State.regsUpTo (s : State) (x : RegIdx) : List Byte := s.V.toList.take (x.val + 1)

/-- `V[j] <- mem[I + j]` for `j` in 0 to `x` (R186). -/
def State.loadRegs (s : State) (x : RegIdx) : State :=
  { s with V := Vector.ofFn fun j => if j ≤ x then s.byteAt (s.dataAddr j.val) else s.reg j }

/-- The `n` bytes of a sprite, top row first (R192). -/
def State.spriteBytes (s : State) (n : Nat) : List Byte :=
  (List.range n).map fun r => s.byteAt (s.dataAddr r)

/-- `I <- I +_16 (x + 1)`, the side effect of LD [I],Vx and LD Vx,[I] (R185, R186). -/
def State.advanceI (s : State) (x : RegIdx) : State := { s with I := s.I + BitVec.ofNat 16 (x.val + 1) }

end Sys2Proof.Machine
end

