-- ==== Sys2Proof/Machine/Flow.lean ====
section
/-! DEFINITION. Control transfer and the no-ops (spec/41_flow.md). -/

namespace Sys2Proof.Machine

abbrev Result := Host.Outcome State Fault Refusal

/-- SYS nnn (R140): a no-op. -/
def execSys (_nnn : Addr12) (s : State) : Result := .next s.next

/-- RET (R141): pops the newest entry; the popped slot keeps its value (R28). -/
def execRet (s : State) : Result :=
  if h : s.SP.val = 0 then .next (s.raise .stackUnderflow (encode .ret) 0)
  else
    .next { s with
      SP := ⟨s.SP.val - 1, by omega⟩
      PC := s.stack[s.SP.val - 1]'(by have := s.SP.isLt; simp only [Config.stackDepth]; omega) }

/-- JP nnn (R142). -/
def execJp (nnn : Addr12) (s : State) : Result := .next (s.jump (addrOperand nnn))

/-- CALL nnn (R143): pushes the address of the next instruction. -/
def execCall (nnn : Addr12) (s : State) : Result :=
  if h : s.SP.val < Config.stackDepth then
    .next { s with
      stack := s.stack.set s.SP.val (s.PC + 2)
      SP := ⟨s.SP.val + 1, by simp only [Config.stackDepth] at h; omega⟩
      PC := addrOperand nnn }
  else .next (s.raise .stackOverflow (encode (.call nnn)) 0)

/-- JP V0, nnn (R144): not reduced to 12 bits. -/
def execJpV0 (nnn : Addr12) (s : State) : Result :=
  .next (s.jump (addrOperand nnn + byteOperand (s.reg 0)))

/-- UNRECOGNIZED (R145): a no-op. -/
def execUnrecognized (_w : Word) (s : State) : Result := .next s.next

end Sys2Proof.Machine
end

