-- ==== Sys2Proof/Machine/Alu.lean ====
section
/-! DEFINITION. Register load, arithmetic, logic, shift and random (spec/43_alu.md). Operands are read
before anything is written (R23). -/

namespace Sys2Proof.Machine

/-- LD Vx, kk (R161). -/
def execLdImm (x : RegIdx) (kk : Byte) (s : State) : Result := .next (s.setReg x kk).next

/-- ADD Vx, kk (R162): modulo 256, no flag. -/
def execAddImm (x : RegIdx) (kk : Byte) (s : State) : Result := .next (s.setReg x (s.reg x + kk)).next

/-- LD Vx, Vy (R163). -/
def execLdReg (x y : RegIdx) (s : State) : Result := .next (s.setReg x (s.reg y)).next

/-- OR Vx, Vy (R164): no flag. -/
def execOr (x y : RegIdx) (s : State) : Result := .next (s.setReg x (s.reg x ||| s.reg y)).next

/-- AND Vx, Vy (R165): no flag. -/
def execAnd (x y : RegIdx) (s : State) : Result := .next (s.setReg x (s.reg x &&& s.reg y)).next

/-- XOR Vx, Vy (R166): no flag. -/
def execXor (x y : RegIdx) (s : State) : Result := .next (s.setReg x (s.reg x ^^^ s.reg y)).next

/-- ADD Vx, Vy (R167): VF is the carry. -/
def execAddReg (x y : RegIdx) (s : State) : Result :=
  .next (s.setResultFlag x (s.reg x + s.reg y) (carryOut (s.reg x) (s.reg y))).next

/-- SUB Vx, Vy (R168): VF is 1 on no borrow. -/
def execSub (x y : RegIdx) (s : State) : Result :=
  .next (s.setResultFlag x (s.reg x - s.reg y) (noBorrow (s.reg x) (s.reg y))).next

/-- SHR Vx (R169): Vx in place, `y` ignored; VF is the bit shifted out. -/
def execShr (x _y : RegIdx) (s : State) : Result :=
  .next (s.setResultFlag x (s.reg x >>> 1) (rightShiftOut (s.reg x))).next

/-- SUBN Vx, Vy (R170): VF is 1 on no borrow of `Vy - Vx`. -/
def execSubn (x y : RegIdx) (s : State) : Result :=
  .next (s.setResultFlag x (s.reg y - s.reg x) (noBorrow (s.reg y) (s.reg x))).next

/-- SHL Vx (R171): Vx in place, `y` ignored; VF is the bit shifted out. -/
def execShl (x _y : RegIdx) (s : State) : Result :=
  .next (s.setResultFlag x (s.reg x <<< 1) (leftShiftOut (s.reg x))).next

/-- RND Vx, kk (R175): one byte of the Random capability, masked. -/
def execRnd (x : RegIdx) (kk : Byte) (s : State) : Result :=
  .next (s.drawRandom.setReg x (s.randomByte &&& kk)).next

end Sys2Proof.Machine
end

