-- ==== Sys2Proof/Machine/Display.lean ====
section
/-! DEFINITION. The display instructions (spec/45_display.md): CLS, and DRW as the loop of R191 over
sprite rows and columns, pixels outside the grid dropped (R193). -/

namespace Sys2Proof.Machine

/-- The framebuffer with no pixel lit (R190). -/
def clearedFb : Framebuffer := Vector.replicate _ (Vector.replicate _ false)

/-- What a DRW has done so far: the framebuffer, and whether a lit pixel was unset (R194). -/
structure Canvas where
  fb : Framebuffer
  collision : Bool
deriving DecidableEq, Repr

/-- One pixel of a sprite: dropped outside the grid, else toggled if its bit is 1 (R191). -/
def drawPixel (col row : Nat) (bit : Bool) (c : Canvas) : Canvas :=
  if h : col < Config.dispW ∧ row < Config.dispH then
    if bit then
      { fb := c.fb.set row (c.fb[row].set col (!c.fb[row][col]))
        collision := c.collision || c.fb[row][col] }
    else c
  else c

/-- Pixels `k` to 7 of a sprite row, leftmost first; pixel `k` is bit `7 - k` of the byte (R192). -/
def drawRow (x0 row : Nat) (b : Byte) (c : Canvas) : Canvas :=
  (List.range Config.spriteW).foldl (fun c k => drawPixel (x0 + k) row (b.getLsbD (7 - k)) c) c

/-- The sprite rows from `row` downward (R191). -/
def drawRows (x0 : Nat) : Nat → List Byte → Canvas → Canvas
  | _, [], c => c
  | row, b :: bs, c => drawRows x0 (row + 1) bs (drawRow x0 row b c)

/-- CLS (R190): every pixel unset, `dirty` set. -/
def execCls (s : State) : Result := .next { s with fb := clearedFb, dirty := true }.next

/-- DRW Vx, Vy, n (R191): all `n` bytes are checked first; VF is the collision. -/
def execDrw (x y : RegIdx) (n : Fin 16) (s : State) : Result :=
  match s.dataFault? n.val with
  | some a => .next (s.raise .dataBounds (encode (.drw x y n)) a)
  | none =>
    let c := drawRows (s.reg x).toNat (s.reg y).toNat (s.spriteBytes n.val)
      { fb := s.fb, collision := false }
    .next (({ s with fb := c.fb, dirty := true } : State).setFlag c.collision).next

end Sys2Proof.Machine
end

