-- ==== Sys2Proof/Machine/IndexMemory.lean ====
section
/-! DEFINITION. The index register and the memory instructions (spec/44_index_memory.md). -/

namespace Sys2Proof.Machine

/-- LD I, nnn (R180). -/
def execLdI (nnn : Addr12) (s : State) : Result := .next { s with I := addrOperand nnn }.next

/-- ADD I, Vx (R181): modulo 65536, no flag. -/
def execAddI (x : RegIdx) (s : State) : Result :=
  .next { s with I := s.I + byteOperand (s.reg x) }.next

/-- LD F, Vx (R182): the start of the glyph of the digit in Vx. -/
def execLdF (x : RegIdx) (s : State) : Result :=
  match digit? (s.reg x) with
  | some d => .next { s with I := glyphAddr d }.next
  | none => .next (s.raise .digitRange (encode (.ldF x)) (byteOperand (s.reg x)))

/-- LD B, Vx (R183): hundreds, tens and ones at `I`, `I+1`, `I+2`; `I` unchanged. -/
def execLdB (x : RegIdx) (s : State) : Result :=
  match s.dataFault? 3 with
  | some a => .next (s.raise .dataBounds (encode (.ldB x)) a)
  | none => .next (s.storeRun (s.dataAddr 0) (decimalDigits (s.reg x))).next

/-- LD [I], Vx (R185): stores V0 to Vx at `I` upward and advances `I`. -/
def execLdMemVx (x : RegIdx) (s : State) : Result :=
  match s.dataFault? (x.val + 1) with
  | some a => .next (s.raise .dataBounds (encode (.ldMemVx x)) a)
  | none => .next ((s.storeRun (s.dataAddr 0) (s.regsUpTo x)).advanceI x).next

/-- LD Vx, [I] (R186): loads V0 to Vx from `I` upward and advances `I`. -/
def execLdVxMem (x : RegIdx) (s : State) : Result :=
  match s.dataFault? (x.val + 1) with
  | some a => .next (s.raise .dataBounds (encode (.ldVxMem x)) a)
  | none => .next ((s.loadRegs x).advanceI x).next

end Sys2Proof.Machine
end

