-- ==== Sys2Proof/Machine/Skip.lean ====
section
/-! DEFINITION. The six conditional skips (spec/42_skip.md). -/

namespace Sys2Proof.Machine

/-- SE Vx, kk (R150). -/
def execSeImm (x : RegIdx) (kk : Byte) (s : State) : Result := .next (s.skipIf (s.reg x == kk))

/-- SNE Vx, kk (R151). -/
def execSneImm (x : RegIdx) (kk : Byte) (s : State) : Result := .next (s.skipIf (s.reg x != kk))

/-- SE Vx, Vy (R152). -/
def execSeReg (x y : RegIdx) (s : State) : Result := .next (s.skipIf (s.reg x == s.reg y))

/-- SNE Vx, Vy (R153). -/
def execSneReg (x y : RegIdx) (s : State) : Result := .next (s.skipIf (s.reg x != s.reg y))

/-- SKP Vx (R154): the live level of the key whose number Vx holds. -/
def execSkp (x : RegIdx) (s : State) : Result :=
  match digit? (s.reg x) with
  | some k => .next (s.skipIf s.key[k])
  | none => .next (s.raise .digitRange (encode (.skp x)) (byteOperand (s.reg x)))

/-- SKNP Vx (R155). -/
def execSknp (x : RegIdx) (s : State) : Result :=
  match digit? (s.reg x) with
  | some k => .next (s.skipIf (!s.key[k]))
  | none => .next (s.raise .digitRange (encode (.sknp x)) (byteOperand (s.reg x)))

end Sys2Proof.Machine
end

