-- ==== Sys2Proof/Machine/TimerKey.lean ====
section
/-! DEFINITION. The timer and key-wait instructions (spec/46_timer_key.md). The tick of the same cycle
comes after them (`runningCycle`). -/

namespace Sys2Proof.Machine

/-- LD Vx, DT (R200). -/
def execLdVxDt (x : RegIdx) (s : State) : Result := .next (s.setReg x s.DT).next

/-- LD DT, Vx (R201). -/
def execLdDtVx (x : RegIdx) (s : State) : Result := .next { s with DT := s.reg x }.next

/-- LD ST, Vx (R202). -/
def execLdStVx (x : RegIdx) (s : State) : Result := .next { s with ST := s.reg x }.next

/-- LD Vx, K (R203): enters WaitingForKey; the latch is not polled in this cycle. -/
def execLdVxK (x : RegIdx) (s : State) : Result := .next { s with wait := some x }.next

end Sys2Proof.Machine
end

