-- ==== Sys2Proof/Machine/Cycle.lean ====
section
/-! DEFINITION. run_one_cycle (spec/40_engine_cycle.md R120 to R125): the three bodies, chosen by the
state at the start of the cycle. -/

namespace Sys2Proof.Machine

/-- A Halted cycle (R121): nothing changes. -/
def haltedCycle (s : State) : Result := .next s

/-- The effect of a poll (R123 step 1): the least pressed key goes to the waiting register. -/
def State.poll (s : State) (r : RegIdx) : State :=
  match lowestKey s.key with
  | some k => { s.setReg r (BitVec.ofNat 8 k.val) with wait := none }
  | none => s

/-- A WaitingForKey cycle (R123): poll, then tick; nothing is fetched and PC stays. -/
def waitingCycle (r : RegIdx) (s : State) : Result := .next (s.poll r).tick

/-- The tick that ends a Running cycle; it does not run in a cycle that raised a fault (R125). -/
def State.tickUnlessHalted (s : State) : State := if s.halt.isSome then s else s.tick

/-- A Running cycle (R122): fetch, decode, execute, tick. -/
def runningCycle (s : State) : Result :=
  match s.fetch? with
  | none => .next (s.raise .fetchBounds 0 s.PC)
  | some w =>
    match exec (decode w) s with
    | .next t => .next t.tickUnlessHalted
    | .fault f => .fault f
    | .refused r => .refused r

/-- The body of a cycle: Halted before WaitingForKey before Running (R120). -/
def cycle (s : State) : Result :=
  if s.halt.isSome then haltedCycle s
  else
    match s.wait with
    | some r => waitingCycle r s
    | none => runningCycle s

end Sys2Proof.Machine
end

