-- ==== Sys2Proof/Machine/Step.lean ====
section
/-! DEFINITION. One step of the machine is one run_one_cycle (spec/40_engine_cycle.md R120). -/

namespace Sys2Proof.Machine

/-- One run_one_cycle. -/
def step (s : State) : Host.Outcome State Fault Refusal := cycle s

/-- `s` with the word of an opcode-table row where the very next step fetches it: the engine is put in
mode Running, PC stays unless nothing can be fetched there (then it is the reset value), and the word's
two bytes are stored at PC, high byte first. It stands for the host's load (log 26). -/
def State.withFetchWord (s : State) (nbits w : Nat) : State :=
  let pc := if fetchable s.PC then s.PC else BitVec.ofNat 16 Config.progBase
  { s with
    halt := none
    wait := none
    PC := pc
    mem := s.mem.writeRun pc.toNat (wordBytes (tableWord nbits w)) }

end Sys2Proof.Machine
end

