-- ==== Sys2Proof/Machine/HostOps.lean ====
section
/-! DEFINITION. The host interface (spec/60_exceptions.md R236 to R243, spec/70_reset_and_hazards.md R260,
R263): each operation is one atomic function on the state, accepted in every mode (R227). Reset is
`State.hostReset` (Ops.lean), run_one_cycle is `step`. -/

namespace Sys2Proof.Machine

/-- construct: power-on, the reset state with the given FONT and the bytes the bound Random capability
is fixed to return (R237, R261). -/
def State.construct (font : Vector Byte Config.fontSize) (rnd : List Byte) : State :=
  { State.reset with mem := { font := font, cells := [] }, rnd := rnd }

/-- Why load rejects a program (R263). -/
inductive LoadError where
  /-- More than 3584 bytes. Raised by `State.load`; safe. -/
  | loadTooLarge
deriving DecidableEq, Repr

/-- load(bytes): the bytes verbatim at 0x200 upward and nothing else, or an error and no change (R263). A
program of one byte is no special case: the word fetched at 0x200 runs, though R262 also calls such a
program SYS 0 no-ops (DESIGN CHOICE, log 33). -/
def State.load (s : State) (bytes : List Byte) : Except LoadError State :=
  if bytes.length ≤ Config.progMax then .ok (s.storeRun Config.progBase bytes) else .error .loadTooLarge

/-- press_key(k) (R240). -/
def State.pressKey (s : State) (k : RegIdx) : State := { s with key := s.key.set k true }

/-- release_key(k) (R241). -/
def State.releaseKey (s : State) (k : RegIdx) : State := { s with key := s.key.set k false }

/-- framebuffer_snapshot() (R242). -/
def State.framebufferSnapshot (s : State) : Framebuffer := s.fb

/-- needs_redraw() (R243). -/
def State.needsRedraw (s : State) : Bool := s.dirty

/-- ack_redraw() (R243). -/
def State.ackRedraw (s : State) : State := { s with dirty := false }

/-- The read of the halt record (R227). -/
def State.haltRecord (s : State) : Option HaltRecord := s.halt

/-- A host operation that can change the state (R236). -/
inductive HostOp where
  | cycle (rnd : Byte)
  | press (k : RegIdx)
  | release (k : RegIdx)
  | load (bytes : List Byte)
  | reset
  | ackRedraw
deriving DecidableEq, Repr

/-- One run_one_cycle offered the byte `rnd`; a cycle that draws none leaves it unused (R120, R130). -/
def State.cycleWith (s : State) (rnd : Byte) : State :=
  match step { s with rnd := [rnd] } with
  | .next t => { t with rnd := s.rnd }
  | .fault _ => s
  | .refused _ => s

/-- The effect of one host operation; a rejected load has none (R263). -/
def State.applyHostOp (s : State) : HostOp → State
  | .cycle rnd => s.cycleWith rnd
  | .press k => s.pressKey k
  | .release k => s.releaseKey k
  | .load bytes =>
    match s.load bytes with
    | .ok t => t
    | .error _ => s
  | .reset => s.hostReset
  | .ackRedraw => s.ackRedraw

/-- A run: the host's operations in their total order (R71, R236). -/
def State.runOps (s : State) (ops : List HostOp) : State := ops.foldl State.applyHostOp s

end Sys2Proof.Machine
end

