-- ==== Sys2Proof/Safety.lean ====
section
/-! DEFINITION. The terms claims are stated in: what a step leaves unchanged (frames), the write sets of
spec/10_state.md R43, which instruction can raise which fault (spec/60_exceptions.md R228), safe and
finished states, and the invariant of the machine. -/

namespace Sys2Proof.Machine

/-! ### Frames -/

/-- The parts of the state a frame speaks of. -/
inductive Part where
  | font | mem | V | I | PC | stack | SP | DT | ST | fb | dirty | key | wait | halt | random | audio
deriving DecidableEq, Repr

/-- The part is the same in both states; memory is compared by reading every byte. -/
def Part.Same : Part → State → State → Prop
  | .font, s, t => t.mem.font = s.mem.font
  | .mem, s, t => ∀ a, t.byteAt a = s.byteAt a
  | .V, s, t => ∀ r, t.reg r = s.reg r
  | .I, s, t => t.I = s.I
  | .PC, s, t => t.PC = s.PC
  | .stack, s, t => t.stack = s.stack
  | .SP, s, t => t.SP = s.SP
  | .DT, s, t => t.DT = s.DT
  | .ST, s, t => t.ST = s.ST
  | .fb, s, t => t.fb = s.fb
  | .dirty, s, t => t.dirty = s.dirty
  | .key, s, t => t.key = s.key
  | .wait, s, t => t.wait = s.wait
  | .halt, s, t => t.halt = s.halt
  | .random, s, t => t.rnd = s.rnd ∧ t.drawn = s.drawn
  | .audio, s, t => t.audio = s.audio

/-- Every part of the state but the listed ones is unchanged. -/
def KeepsAllBut (changed : List Part) (s t : State) : Prop := ∀ p, p ∉ changed → p.Same s t

/-- Every general register but the listed ones is unchanged. -/
def KeepsRegsBut (changed : List RegIdx) (s t : State) : Prop :=
  ∀ r, r ∉ changed → t.reg r = s.reg r

/-- Every byte of memory but the `n` bytes from `lo` on is unchanged. -/
def KeepsBytesOutside (lo n : Nat) (s t : State) : Prop :=
  ∀ a, a < lo ∨ lo + n ≤ a → t.byteAt a = s.byteAt a

/-! ### Whole-instruction tables -/

/-- The parts an instruction writes beside PC (R43); RND also consumes a byte of the capability. -/
def writeParts : Instr → List Part
  | .cls => [.fb, .dirty]
  | .ret => [.SP]
  | .call _ => [.stack, .SP]
  | .sys _ | .jp _ | .jpV0 _ | .unrecognized _ => []
  | .seImm _ _ | .sneImm _ _ | .seReg _ _ | .sneReg _ _ | .skp _ | .sknp _ => []
  | .ldImm _ _ | .addImm _ _ | .ldReg _ _ | .or _ _ | .and _ _ | .xor _ _ => [.V]
  | .addReg _ _ | .sub _ _ | .subn _ _ | .shr _ _ | .shl _ _ => [.V]
  | .rnd _ _ => [.V, .random]
  | .ldI _ | .addI _ | .ldF _ => [.I]
  | .drw _ _ _ => [.fb, .V, .dirty]
  | .ldVxDt _ => [.V]
  | .ldVxK _ => [.wait]
  | .ldDtVx _ => [.DT]
  | .ldStVx _ => [.ST]
  | .ldB _ => [.mem]
  | .ldMemVx _ => [.mem, .I]
  | .ldVxMem _ => [.V, .I]

/-- The registers an instruction writes (R43). -/
def writesReg (r : RegIdx) : Instr → Bool
  | .ldImm x _ | .addImm x _ | .ldReg x _ | .or x _ | .and x _ | .xor x _ | .rnd x _
  | .ldVxDt x => r == x
  | .addReg x _ | .sub x _ | .subn x _ | .shr x _ | .shl x _ => r == x || r == 15
  | .drw _ _ _ => r == 15
  | .ldVxMem x => decide (r ≤ x)
  | .cls | .ret | .sys _ | .jp _ | .call _ | .seImm _ _ | .sneImm _ _ | .seReg _ _ | .sneReg _ _
  | .ldI _ | .jpV0 _ | .skp _ | .sknp _ | .ldVxK _ | .ldDtVx _ | .ldStVx _ | .addI _ | .ldF _
  | .ldB _ | .ldMemVx _ | .unrecognized _ => false

/-- How many bytes an instruction stores, from `State.dataAddr 0` upward (R43). -/
def storeCount : Instr → Nat
  | .ldB _ => 3
  | .ldMemVx x => x.val + 1
  | .cls | .ret | .sys _ | .jp _ | .call _ | .seImm _ _ | .sneImm _ _ | .seReg _ _ | .ldImm _ _
  | .addImm _ _ | .ldReg _ _ | .or _ _ | .and _ _ | .xor _ _ | .addReg _ _ | .sub _ _ | .shr _ _
  | .subn _ _ | .shl _ _ | .sneReg _ _ | .ldI _ | .jpV0 _ | .rnd _ _ | .drw _ _ _ | .skp _ | .sknp _
  | .ldVxDt _ | .ldVxK _ | .ldDtVx _ | .ldStVx _ | .addI _ | .ldF _ | .ldVxMem _
  | .unrecognized _ => 0

/-- The instructions that write VF as a flag (R22). -/
def writesFlag : Instr → Bool
  | .addReg _ _ | .sub _ _ | .shr _ _ | .subn _ _ | .shl _ _ | .drw _ _ _ => true
  | .cls | .ret | .sys _ | .jp _ | .call _ | .seImm _ _ | .sneImm _ _ | .seReg _ _ | .ldImm _ _
  | .addImm _ _ | .ldReg _ _ | .or _ _ | .and _ _ | .xor _ _ | .sneReg _ _ | .ldI _ | .jpV0 _
  | .rnd _ _ | .skp _ | .sknp _ | .ldVxDt _ | .ldVxK _ | .ldDtVx _ | .ldStVx _ | .addI _ | .ldF _
  | .ldB _ | .ldMemVx _ | .ldVxMem _ | .unrecognized _ => false

/-- Where PC goes when the instruction is executed without a fault: the text of R25. -/
def State.pcAfter (s : State) : Instr → Word
  | .jp nnn | .call nnn => nnn.setWidth 16
  | .jpV0 nnn => nnn.setWidth 16 + (s.reg 0).setWidth 16
  | .ret => (s.stack[s.SP.val - 1]?).getD 0
  | .seImm x kk => if s.reg x = kk then s.PC + 4 else s.PC + 2
  | .sneImm x kk => if s.reg x = kk then s.PC + 2 else s.PC + 4
  | .seReg x y => if s.reg x = s.reg y then s.PC + 4 else s.PC + 2
  | .sneReg x y => if s.reg x = s.reg y then s.PC + 2 else s.PC + 4
  | .skp x => if s.key[(s.reg x).toNat]? = some true then s.PC + 4 else s.PC + 2
  | .sknp x => if s.key[(s.reg x).toNat]? = some true then s.PC + 2 else s.PC + 4
  | .cls | .sys _ | .ldImm _ _ | .addImm _ _ | .ldReg _ _ | .or _ _ | .and _ _ | .xor _ _
  | .addReg _ _ | .sub _ _ | .shr _ _ | .subn _ _ | .shl _ _ | .ldI _ | .rnd _ _ | .drw _ _ _
  | .ldVxDt _ | .ldVxK _ | .ldDtVx _ | .ldStVx _ | .addI _ | .ldF _ | .ldB _ | .ldMemVx _
  | .ldVxMem _ | .unrecognized _ => s.PC + 2

/-- The one fault an instruction can raise (R228). -/
def faultOf : Instr → Option Fault
  | .call _ => some .stackOverflow
  | .ret => some .stackUnderflow
  | .drw _ _ _ | .ldB _ | .ldMemVx _ | .ldVxMem _ => some .dataBounds
  | .skp _ | .sknp _ | .ldF _ => some .digitRange
  | .cls | .sys _ | .jp _ | .seImm _ _ | .sneImm _ _ | .seReg _ _ | .ldImm _ _ | .addImm _ _
  | .ldReg _ _ | .or _ _ | .and _ _ | .xor _ _ | .addReg _ _ | .sub _ _ | .shr _ _ | .subn _ _
  | .shl _ _ | .sneReg _ _ | .ldI _ | .jpV0 _ | .rnd _ _ | .ldVxDt _ | .ldVxK _ | .ldDtVx _
  | .ldStVx _ | .addI _ | .unrecognized _ => none

/-! ### Modes -/

/-- Nothing has gone wrong: no fault has been raised (R227). -/
def State.Safe (s : State) : Prop := s.halt = none

/-- Mode Running (R38, R41). -/
def State.Running (s : State) : Prop := s.halt = none ∧ s.wait = none

/-- The big-endian word at PC (R66). -/
def State.wordAtPC (s : State) : Word := s.byteAt s.PC.toNat ++ s.byteAt (s.PC.toNat + 1)

/-- The next step runs instruction `i`: Running, PC fetchable, and the word at PC is one of `i`'s. -/
def State.AtInstr (s : State) (i : Instr) : Prop :=
  s.Running ∧ s.PC.toNat < Config.fetchLimit ∧ decode s.wordAtPC = i

/-- A program that spins on a JP to its own address, the customary end of a run (R271). -/
def State.Spinning (s : State) : Prop := ∃ nnn, s.AtInstr (.jp nnn) ∧ nnn.toNat = s.PC.toNat

/-- `k` cycles from `s` to `t`, none of which faults or loads the sound timer. -/
def QuietRun : Nat → State → State → Prop
  | 0, s, t => t = s
  | k + 1, s, t =>
    (¬ ∃ x, s.AtInstr (.ldStVx x)) ∧ ∃ u, step s = .next u ∧ u.Safe ∧ QuietRun k u t

/-! ### Display -/

/-- `fb[row][col]` (R34). -/
def State.pixel (s : State) (row : Fin 32) (col : Fin 64) : Bool := s.fb[row][col]

/-- The sprite of `n` rows at `I`, drawn with its top left corner at column `x0`, row `y0`, has a 1 bit
on the pixel (R191, R192). -/
def State.spriteBit (s : State) (x0 y0 n : Nat) (row : Fin 32) (col : Fin 64) : Bool :=
  decide (y0 ≤ row.val ∧ row.val < y0 + n ∧ x0 ≤ col.val ∧ col.val < x0 + 8)
    && (s.byteAt (s.I.toNat + (row.val - y0))).getLsbD (7 - (col.val - x0))

/-! ### The invariant -/

/-- What a halt record says of the state it stands in (the table of R220, and R226). -/
def HaltRecord.Fits (r : HaltRecord) (s : State) : Prop :=
  r.pc = s.PC ∧ r.depth = s.SP ∧
    match r.cause with
    | .stackOverflow => s.SP.val = 16 ∧ r.addr = 0
    | .stackUnderflow => s.SP.val = 0 ∧ r.addr = 0
    | .fetchBounds => 4094 ≤ s.PC.toNat ∧ r.addr = s.PC ∧ r.opcode = 0
    | .dataBounds => r.addr.toNat = max s.I.toNat 4096
    | .digitRange => 15 < r.addr.toNat ∧ r.addr.toNat < 256

/-- The invariant: memory is in canonical form; PC is at most 0x10FE (R26); every valid return address
is a memory address (R141); Halted and WaitingForKey do not hold together (R228); a halt record fits
the state (R226). -/
structure Inv (s : State) : Prop where
  memCanonical : s.mem.wf
  pcBound : s.PC.toNat ≤ 0x10FE
  returnAddrs : ∀ j : Fin 16, j.val < s.SP.val → s.stack[j].toNat < Config.memSize
  notWaitingHalted : s.halt = none ∨ s.wait = none
  haltRecordFits : ∀ r, s.halt = some r → r.Fits s

end Sys2Proof.Machine
end

