-- ==== Sys2Proof/Certificates/Slice0/Obligations.lean ====
section
/-! DEFINITION. The statements for the provers. Each docstring names the rules of spec/ it formalises;
"D<n>" is a decision spec/92_eei_decisions.md marks as the spec's own, "log <n>" the assumption log. -/

open Sys2Proof Sys2Proof.Machine

/-- Decoding the encoding of any well-formed instruction gives it back. Derived: 30_encoding.md R94;
30_encoding.md R96; 30_encoding.md R92; 20_memory.md R66. -/
def Obligations.DecodeInvertsEncode : Prop :=
  ∀ (i : Instr) (rest : List Byte), i.wf = true →
    decode (encode i) = i ∧ decodeBytes (encodeBytes i ++ rest) = .ok (i, rest)

/-- Every 16-bit word decodes to one well-formed instruction that encodes back to the word. Derived:
30_encoding.md R94; 30_encoding.md R95; 30_encoding.md R97. -/
def Obligations.EncodeInvertsDecode : Prop :=
  ∀ (w : Word) (rest : List Byte),
    (decode w).wf = true ∧ encode (decode w) = w ∧
      decodeBytes (wordBytes w ++ rest) = .ok (decode w, rest)

/-- Exactly the words of R97 are UNRECOGNIZED, and exactly 0nnn but 00E0 and 00EE are SYS. Derived:
30_encoding.md R97 (its derived class lists, not its counts). -/
def Obligations.UnrecognizedAndSysClasses : Prop :=
  ∀ w : Word,
    ((∃ v, decode w = .unrecognized v) ↔
      ((w.toNat / 4096 = 5 ∨ w.toNat / 4096 = 9) ∧ w.toNat % 16 ≠ 0) ∨
      (w.toNat / 4096 = 8 ∧ w.toNat % 16 ∈ [8, 9, 10, 11, 12, 13, 15]) ∨
      (w.toNat / 4096 = 14 ∧ w.toNat % 256 ∉ [0x9E, 0xA1]) ∨
      (w.toNat / 4096 = 15 ∧
        w.toNat % 256 ∉ [0x07, 0x0A, 0x15, 0x18, 0x1E, 0x29, 0x33, 0x55, 0x65])) ∧
    ((∃ nnn, decode w = .sys nnn) ↔ w.toNat < 4096 ∧ w.toNat ≠ 0x0E0 ∧ w.toNat ≠ 0x0EE)

/-- A few words of every family decode to the instruction they stand for. Derived:
95_test_vectors.md 2.1; 30_encoding.md R96. -/
def Obligations.SampleWordsDecode : Prop :=
  decode 0x00E0 = .cls ∧ decode 0x00EE = .ret ∧ decode 0x00E1 = .sys 0x0E1 ∧
    decode 0x1234 = .jp 0x234 ∧ decode 0x3A7F = .seImm 10 0x7F ∧ decode 0x5120 = .seReg 1 2 ∧
    decode 0x5121 = .unrecognized 0x5121 ∧ decode 0x8127 = .subn 1 2 ∧ decode 0x812E = .shl 1 2 ∧
    decode 0xA123 = .ldI 0x123 ∧ decode 0xC3F0 = .rnd 3 0xF0 ∧ decode 0xD125 = .drw 1 2 5 ∧
    decode 0xE1A1 = .sknp 1 ∧ decode 0xF10A = .ldVxK 1 ∧ decode 0xF155 = .ldMemVx 1

/-- Fetch reads two bytes, the high one first, exactly when PC is below 4094. Derived: 20_memory.md
R66 (the literal bound is the spec's decision D2). -/
def Obligations.FetchIsBigEndianBelow4094 : Prop :=
  ∀ s : State, s.fetch? =
    if s.PC.toNat < 4094 then
      some (BitVec.ofNat 16
        (256 * (s.byteAt s.PC.toNat).toNat + (s.byteAt (s.PC.toNat + 1)).toNat))
    else none

/-- A step in mode Running runs the instruction at PC, then ticks unless it faulted. Derived:
40_engine_cycle.md R122; 40_engine_cycle.md R125. -/
def Obligations.StepRunsDecodedInstruction : Prop :=
  ∀ (s t : State) (i : Instr), s.AtInstr i → exec i s = .next t →
    (t.halt = none → step s = .next t.tick) ∧ (t.halt ≠ none → step s = .next t)

/-- Every step, and every instruction on every state, answers a next state. Derived:
40_engine_cycle.md R120 (the cycle is total). -/
def Obligations.StepAlwaysAnswersNext : Prop :=
  (∀ s : State, ∃ t, step s = .next t) ∧ ∀ (i : Instr) (s : State), ∃ t, exec i s = .next t

/-- The tick decrements both timers to a floor of 0 and emits begin_tone exactly when ST is 1.
Stated: R127. -/
def Obligations.TickCountsDownAndTones : Prop :=
  ∀ s : State,
    (s.ST = 1 → s.tick.ST = 0 ∧ s.tick.audio = s.audio ++ [.beginTone]) ∧
    (1 < s.ST.toNat → s.tick.ST.toNat = s.ST.toNat - 1 ∧ s.tick.audio = s.audio) ∧
    (s.ST = 0 → s.tick.ST = 0 ∧ s.tick.audio = s.audio) ∧
    s.tick.DT.toNat = s.DT.toNat - 1 ∧ KeepsAllBut [.DT, .ST, .audio] s s.tick ∧
    ∀ (i : Instr) (t : State), exec i s = .next t → t.audio = s.audio

/-- A Running cycle that does not fault ticks both timers exactly once. Derived: 40_engine_cycle.md
R126; 40_engine_cycle.md R127; 40_engine_cycle.md R122. -/
def Obligations.RunningCycleTicksOnce : Prop :=
  ∀ (s t : State) (i : Instr), s.AtInstr i → (∀ x, i ≠ .ldDtVx x) → (∀ x, i ≠ .ldStVx x) →
    step s = .next t → t.halt = none →
    t.DT.toNat = s.DT.toNat - 1 ∧ t.ST.toNat = s.ST.toNat - 1 ∧
      t.audio = s.audio ++ (if s.ST = 1 then [.beginTone] else [])

/-- A timer written in a cycle is ticked in that cycle; a timer read comes before the tick. Derived:
40_engine_cycle.md R124 (a) (b) (c) (e); 46_timer_key.md R200 (D20, log 16); 46_timer_key.md R201
(D20, log 16); 46_timer_key.md R202 (D20, log 16). -/
def Obligations.TimerInstructionsInTheirOwnCycle : Prop :=
  ∀ (s : State) (x : RegIdx),
    (s.AtInstr (.ldDtVx x) →
      ∃ t, step s = .next t ∧ t.DT.toNat = (s.reg x).toNat - 1 ∧ t.PC = s.PC + 2) ∧
    (s.AtInstr (.ldStVx x) →
      ∃ t, step s = .next t ∧ t.ST.toNat = (s.reg x).toNat - 1 ∧ t.PC = s.PC + 2 ∧
        t.audio = s.audio ++ (if s.reg x = 1 then [.beginTone] else [])) ∧
    (s.AtInstr (.ldVxDt x) →
      ∃ t, step s = .next t ∧ t.reg x = s.DT ∧ t.DT.toNat = s.DT.toNat - 1 ∧ t.PC = s.PC + 2)

/-- A sound timer loaded with v emits exactly one begin_tone, in the v-th cycle. Derived:
40_engine_cycle.md R124 (d); 40_engine_cycle.md R127; 40_engine_cycle.md R123 (waiting cycles tick:
D7, log 23); 46_timer_key.md R202 (Fx18 writes ST: D20, log 16). -/
def Obligations.SoundTimerTonesOnce : Prop :=
  (∀ (k : Nat) (s t : State), QuietRun k s t →
      t.ST.toNat = s.ST.toNat - k ∧
      t.audio = s.audio ++ (if 1 ≤ s.ST.toNat ∧ s.ST.toNat ≤ k then [.beginTone] else [])) ∧
    (∀ (k : Nat) (s u t : State) (x : RegIdx), s.AtInstr (.ldStVx x) → step s = .next u →
      QuietRun k u t →
      t.audio = s.audio ++
        (if 1 ≤ (s.reg x).toNat ∧ (s.reg x).toNat ≤ k + 1 then [.beginTone] else []))

/-- In Halted every cycle changes nothing, and every host operation but reset keeps the halt record.
Derived: 40_engine_cycle.md R121 (D3); 60_exceptions.md R227 (D3, D35); 60_exceptions.md R229. -/
def Obligations.HaltedStaysHalted : Prop :=
  (∀ (k : Nat) (s : State), s.halt ≠ none → Host.Core.run Sys2Proof.core k s = .next s) ∧
    (∀ (s : State) (op : HostOp), s.halt ≠ none →
      (op ≠ .reset → (s.applyHostOp op).halt = s.halt) ∧
      (op = .reset → (s.applyHostOp op).halt = none))

/-- A Running cycle with PC at or above 4094 writes the FetchBounds record and nothing else.
Derived: 60_exceptions.md R223 (D1, D2); 60_exceptions.md R226; 40_engine_cycle.md R122. -/
def Obligations.FetchBoundsHalts : Prop :=
  ∀ s : State, s.Running → 4094 ≤ s.PC.toNat →
    step s = .next
      { s with halt := some ⟨.fetchBounds, s.PC, 0, s.SP, s.PC⟩ } ∧
    Fault.code .fetchBounds = 3

/-- A faulting cycle changes nothing but halt, and the record names the faulting instruction.
Derived: 40_engine_cycle.md R125 (D3, D9); 60_exceptions.md R226; 60_exceptions.md R228. -/
def Obligations.FaultingCycleIsPrecise : Prop :=
  ∀ (s t : State) (r : HaltRecord), s.halt = none → step s = .next t → t.halt = some r →
    s.wait = none ∧ t = { s with halt := some r } ∧ r.pc = s.PC ∧ r.depth = s.SP ∧
    (4094 ≤ s.PC.toNat → r.cause = .fetchBounds ∧ r.opcode = 0 ∧ r.addr = s.PC) ∧
    (s.PC.toNat < 4094 →
      r.opcode = s.wordAtPC ∧ faultOf (decode s.wordAtPC) = some r.cause)

/-- An instruction that halts raises the one fault of its kind and changes nothing but halt.
Derived: 60_exceptions.md R228; 60_exceptions.md R226; 60_exceptions.md R231. -/
def Obligations.EachInstructionRaisesOnlyItsFault : Prop :=
  ∀ (i : Instr) (s t : State), s.halt = none → exec i s = .next t → t.halt ≠ none →
    ∃ (f : Fault) (a : Word), faultOf i = some f ∧
      t = { s with halt := some ⟨f, s.PC, encode i, s.SP, a⟩ }

/-- How each instruction changes PC. Stated: R25. -/
def Obligations.PcUpdateOfEveryInstruction : Prop :=
  (∀ (i : Instr) (s t : State), s.halt = none → exec i s = .next t →
      (t.halt = none → t.PC = s.pcAfter i) ∧ (t.halt ≠ none → t.PC = s.PC)) ∧
    (∀ s t : State, s.halt ≠ none ∨ s.wait ≠ none ∨ t.halt ≠ none → step s = .next t →
      t.PC = s.PC)

/-- Every instruction changes only the state R43 says it writes. Derived: 10_state.md R43 (its
writes column); 10_state.md R20. -/
def Obligations.WriteSetsOfEveryInstruction : Prop :=
  ∀ (i : Instr) (s t : State), exec i s = .next t →
    (KeepsAllBut (.PC :: writeParts i) s t ∧ (∀ r, writesReg r i = false → t.reg r = s.reg r) ∧
      KeepsBytesOutside (s.dataAddr 0) (storeCount i) s t) ∨
    ∃ r : HaltRecord, t = { s with halt := some r }

/-- The stack pointer stays within 0 to 16, and Call then Return comes back after the call. Stated:
R29. -/
def Obligations.CallReturnDiscipline : Prop :=
  (∀ s : State, s.SP.val ≤ 16) ∧
    (∀ (nnn : Addr12) (s : State), s.SP.val = 16 → ∃ t r, exec (.call nnn) s = .next t ∧
      t.halt = some r ∧ r.cause = .stackOverflow ∧ t.stack = s.stack ∧ t.SP = s.SP ∧ t.PC = s.PC) ∧
    (∀ s : State, s.SP.val = 0 → ∃ t r, exec .ret s = .next t ∧
      t.halt = some r ∧ r.cause = .stackUnderflow ∧ t.stack = s.stack ∧ t.SP = s.SP ∧ t.PC = s.PC) ∧
    (∀ (nnn : Addr12) (s : State), s.SP.val < 16 → ∃ t u, exec (.call nnn) s = .next t ∧
      exec .ret t = .next u ∧ u.PC = s.PC + 2 ∧ u.SP = s.SP)

/-- CALL pushes PC + 2 in the next free slot and jumps. Derived: 41_flow.md R143 (the pushed value
and slot are the spec's decision D16). -/
def Obligations.CallPushesReturnAddress : Prop :=
  ∀ (nnn : Addr12) (s : State), s.SP.val < 16 → ∃ t, exec (.call nnn) s = .next t ∧
    (∀ j : Fin 16, t.stack[j] = if j.val = s.SP.val then s.PC + 2 else s.stack[j]) ∧
    t.SP.val = s.SP.val + 1 ∧ t.PC.toNat = nnn.toNat ∧
    KeepsAllBut [.stack, .SP, .PC] s t

/-- RET pops the newest entry into PC, or raises StackUnderflow. Derived: 41_flow.md R141;
10_state.md R28 (the popped slot keeps its value: D16); 60_exceptions.md R226 (D5). -/
def Obligations.RetPopsReturnAddress : Prop :=
  (∀ (s : State) (j : Fin 16), s.SP.val = j.val + 1 → ∃ t, exec .ret s = .next t ∧
      t.SP.val = j.val ∧ t.PC = s.stack[j] ∧ KeepsAllBut [.SP, .PC] s t) ∧
    (∀ s : State, s.SP.val = 0 → exec .ret s = .next
      { s with halt := some ⟨.stackUnderflow, s.PC, 0x00EE, 0, 0⟩ })

/-- The StackOverflow and StackUnderflow records. Derived: 60_exceptions.md R221; 60_exceptions.md
R222; 60_exceptions.md R220 (D4); 60_exceptions.md R226 (D5). -/
def Obligations.StackFaultsHalt : Prop :=
  (∀ (nnn : Addr12) (s : State), s.SP.val = 16 → exec (.call nnn) s = .next
      { s with halt := some ⟨.stackOverflow, s.PC, (0x2 : Nibble) ++ nnn, s.SP, 0⟩ }) ∧
    (∀ s : State, s.SP.val = 0 → exec .ret s = .next
      { s with halt := some ⟨.stackUnderflow, s.PC, 0x00EE, s.SP, 0⟩ }) ∧
    Fault.code .stackOverflow = 1 ∧ Fault.code .stackUnderflow = 2

/-- JP goes to nnn and JP V0 to nnn + V0, unreduced. Derived: 41_flow.md R142; 41_flow.md R144 (no
12-bit reduction: D28). -/
def Obligations.JumpsSetPc : Prop :=
  ∀ (nnn : Addr12) (s : State),
    (∃ t, exec (.jp nnn) s = .next t ∧ t.PC.toNat = nnn.toNat ∧ KeepsAllBut [.PC] s t) ∧
    (∃ t, exec (.jpV0 nnn) s = .next t ∧ t.PC.toNat = nnn.toNat + (s.reg 0).toNat ∧
      KeepsAllBut [.PC] s t)

/-- SYS and UNRECOGNIZED only advance PC by 2. Derived: 41_flow.md R140; 41_flow.md R145 (D30);
30_encoding.md R100 (D30). -/
def Obligations.SysAndUnrecognizedAreNoOps : Prop :=
  ∀ (nnn : Addr12) (w : Word) (s : State),
    (∃ t, exec (.sys nnn) s = .next t ∧ t.PC = s.PC + 2 ∧ KeepsAllBut [.PC] s t) ∧
    (∃ t, exec (.unrecognized w) s = .next t ∧ t.PC = s.PC + 2 ∧ KeepsAllBut [.PC] s t)

/-- SE and SNE skip by 4 when the comparison holds and by 2 otherwise. Stated: R150; R151; R152;
R153. -/
def Obligations.SkipsCompareRegisters : Prop :=
  ∀ (x y : RegIdx) (kk : Byte) (s : State),
    (∃ t, exec (.seImm x kk) s = .next t ∧
      t.PC = (if s.reg x = kk then s.PC + 4 else s.PC + 2) ∧ KeepsAllBut [.PC] s t) ∧
    (∃ t, exec (.sneImm x kk) s = .next t ∧
      t.PC = (if s.reg x ≠ kk then s.PC + 4 else s.PC + 2) ∧ KeepsAllBut [.PC] s t) ∧
    (∃ t, exec (.seReg x y) s = .next t ∧
      t.PC = (if s.reg x = s.reg y then s.PC + 4 else s.PC + 2) ∧ KeepsAllBut [.PC] s t) ∧
    (∃ t, exec (.sneReg x y) s = .next t ∧
      t.PC = (if s.reg x ≠ s.reg y then s.PC + 4 else s.PC + 2) ∧ KeepsAllBut [.PC] s t) ∧
    (∀ w : Word,
      (decode w = .seImm x kk ↔ w.toNat = 0x3000 + 256 * x.val + kk.toNat) ∧
      (decode w = .sneImm x kk ↔ w.toNat = 0x4000 + 256 * x.val + kk.toNat) ∧
      (decode w = .seReg x y ↔ w.toNat = 0x5000 + 256 * x.val + 16 * y.val) ∧
      (decode w = .sneReg x y ↔ w.toNat = 0x9000 + 256 * x.val + 16 * y.val) ∧
      (w.toNat / 4096 = 5 ∨ w.toNat / 4096 = 9 → w.toNat % 16 ≠ 0 → decode w = .unrecognized w))

/-- SKP and SKNP skip on the live level of the key numbered by Vx. Derived: 42_skip.md R154;
42_skip.md R155. -/
def Obligations.SkipsOnKeyLevel : Prop :=
  ∀ (x k : RegIdx) (s : State), (s.reg x).toNat = k.val →
    (∃ t, exec (.skp x) s = .next t ∧
      t.PC = (if s.key[k] = true then s.PC + 4 else s.PC + 2) ∧ KeepsAllBut [.PC] s t) ∧
    (∃ t, exec (.sknp x) s = .next t ∧
      t.PC = (if s.key[k] = false then s.PC + 4 else s.PC + 2) ∧ KeepsAllBut [.PC] s t)

/-- SKP, SKNP and LD F with Vx above 15 write the DigitRange record and nothing else. Derived:
60_exceptions.md R225 (the spec's decision D6); 42_skip.md R154; 42_skip.md R155; 44_index_memory.md
R182. -/
def Obligations.DigitRangeHalts : Prop :=
  ∀ (x : RegIdx) (s : State), 15 < (s.reg x).toNat →
    (∀ i : Instr, i = .skp x ∨ i = .sknp x ∨ i = .ldF x →
      exec i s = .next
      { s with halt := some ⟨.digitRange, s.PC, encode i, s.SP, BitVec.ofNat 16 (s.reg x).toNat⟩ }) ∧
    Fault.code .digitRange = 5

/-- LD Vx,kk, LD Vx,Vy and LD I,nnn. Stated: R161; R163; R180. -/
def Obligations.LoadsOfRegistersAndIndex : Prop :=
  ∀ (x y : RegIdx) (kk : Byte) (nnn : Addr12) (s : State),
    (∃ t, exec (.ldImm x kk) s = .next t ∧ t.reg x = kk ∧ t.PC = s.PC + 2 ∧
      KeepsRegsBut [x] s t ∧ KeepsAllBut [.V, .PC] s t) ∧
    (∃ t, exec (.ldReg x y) s = .next t ∧ t.reg x = s.reg y ∧ t.PC = s.PC + 2 ∧
      KeepsRegsBut [x] s t ∧ KeepsAllBut [.V, .PC] s t) ∧
    (∃ t, exec (.ldI nnn) s = .next t ∧ t.I.toNat = nnn.toNat ∧ t.PC = s.PC + 2 ∧
      KeepsAllBut [.I, .PC] s t) ∧
    (∀ w : Word,
      (decode w = .ldImm x kk ↔ w.toNat = 0x6000 + 256 * x.val + kk.toNat) ∧
      (decode w = .ldReg x y ↔ w.toNat = 0x8000 + 256 * x.val + 16 * y.val) ∧
      (decode w = .ldI nnn ↔ w.toNat = 0xA000 + nnn.toNat))

/-- ADD Vx,kk adds modulo 256 and OR, AND, XOR work bit by bit, none of them writing VF as a flag.
Derived: 43_alu.md R162 (D13); 43_alu.md R164 (D12); 43_alu.md R165 (D12); 43_alu.md R166 (D12). -/
def Obligations.AddImmediateAndLogicLeaveVf : Prop :=
  ∀ (x y : RegIdx) (kk : Byte) (s : State),
    (∃ t, exec (.addImm x kk) s = .next t ∧
      (t.reg x).toNat = ((s.reg x).toNat + kk.toNat) % 256 ∧ t.PC = s.PC + 2 ∧
      KeepsRegsBut [x] s t ∧ KeepsAllBut [.V, .PC] s t) ∧
    (∃ t, exec (.or x y) s = .next t ∧
      (∀ b < 8, (t.reg x).getLsbD b = ((s.reg x).getLsbD b || (s.reg y).getLsbD b)) ∧
      t.PC = s.PC + 2 ∧ KeepsRegsBut [x] s t ∧ KeepsAllBut [.V, .PC] s t) ∧
    (∃ t, exec (.and x y) s = .next t ∧
      (∀ b < 8, (t.reg x).getLsbD b = ((s.reg x).getLsbD b && (s.reg y).getLsbD b)) ∧
      t.PC = s.PC + 2 ∧ KeepsRegsBut [x] s t ∧ KeepsAllBut [.V, .PC] s t) ∧
    (∃ t, exec (.xor x y) s = .next t ∧
      (∀ b < 8, (t.reg x).getLsbD b = ((s.reg x).getLsbD b != (s.reg y).getLsbD b)) ∧
      t.PC = s.PC + 2 ∧ KeepsRegsBut [x] s t ∧ KeepsAllBut [.V, .PC] s t)

/-- ADD Vx,Vy adds modulo 256 and VF is the carry, computed from the old operands. Derived:
43_alu.md R167; 10_state.md R23 (x = 15: D14). -/
def Obligations.AddSetsCarry : Prop :=
  ∀ (x y : RegIdx) (s : State), ∃ t, exec (.addReg x y) s = .next t ∧
    (x ≠ 15 → (t.reg x).toNat = ((s.reg x).toNat + (s.reg y).toNat) % 256) ∧
    t.reg 15 = (if (s.reg x).toNat + (s.reg y).toNat > 255 then 1 else 0) ∧
    t.PC = s.PC + 2 ∧ KeepsRegsBut [x, 15] s t ∧ KeepsAllBut [.V, .PC] s t

/-- SUB and SUBN subtract modulo 256 and VF is 1 exactly when there is no borrow. Derived: 43_alu.md
R168; 43_alu.md R170; 10_state.md R23 (x = 15: D14). -/
def Obligations.SubtractSetsNoBorrow : Prop :=
  ∀ (x y : RegIdx) (s : State),
    (∃ t, exec (.sub x y) s = .next t ∧
      (x ≠ 15 → (t.reg x).toNat = ((s.reg x).toNat + 256 - (s.reg y).toNat) % 256) ∧
      t.reg 15 = (if (s.reg x).toNat ≥ (s.reg y).toNat then 1 else 0) ∧
      t.PC = s.PC + 2 ∧ KeepsRegsBut [x, 15] s t ∧ KeepsAllBut [.V, .PC] s t) ∧
    (∃ t, exec (.subn x y) s = .next t ∧
      (x ≠ 15 → (t.reg x).toNat = ((s.reg y).toNat + 256 - (s.reg x).toNat) % 256) ∧
      t.reg 15 = (if (s.reg y).toNat ≥ (s.reg x).toNat then 1 else 0) ∧
      t.PC = s.PC + 2 ∧ KeepsRegsBut [x, 15] s t ∧ KeepsAllBut [.V, .PC] s t)

/-- SHR halves Vx and SHL doubles it modulo 256; VF is the bit shifted out. Derived: 43_alu.md R169
(D11); 43_alu.md R171 (D11); 43_alu.md R172. -/
def Obligations.ShiftsInPlaceSetVf : Prop :=
  ∀ (x y : RegIdx) (s : State),
    (∃ t, exec (.shr x y) s = .next t ∧
      (x ≠ 15 → (t.reg x).toNat = (s.reg x).toNat / 2) ∧
      (t.reg 15).toNat = (s.reg x).toNat % 2 ∧
      t.PC = s.PC + 2 ∧ KeepsRegsBut [x, 15] s t ∧ KeepsAllBut [.V, .PC] s t) ∧
    (∃ t, exec (.shl x y) s = .next t ∧
      (x ≠ 15 → (t.reg x).toNat = 2 * (s.reg x).toNat % 256) ∧
      (t.reg 15).toNat = (s.reg x).toNat / 128 ∧
      t.PC = s.PC + 2 ∧ KeepsRegsBut [x, 15] s t ∧ KeepsAllBut [.V, .PC] s t)

/-- VF is 0 or 1 after a flag writer, and no other instruction writes it unless it names register
15. Derived: 10_state.md R22 (D12, D13); 10_state.md R47. -/
def Obligations.VfWrittenOnlyAsFlag : Prop :=
  ∀ (i : Instr) (s t : State), s.halt = none → exec i s = .next t → t.halt = none →
    (writesFlag i = true → t.reg 15 = 0 ∨ t.reg 15 = 1) ∧
    (writesFlag i = false → writesReg 15 i = false → t.reg 15 = s.reg 15)

/-- RND stores the drawn byte ANDed with kk and consumes exactly one byte. Derived: 43_alu.md R175
(D27); 60_exceptions.md R246. -/
def Obligations.RandomByteIsMasked : Prop :=
  ∀ (x : RegIdx) (kk : Byte) (s : State), ∃ t, exec (.rnd x kk) s = .next t ∧
    (∀ b rest, s.rnd = b :: rest → t.reg x = b &&& kk ∧ t.rnd = rest) ∧
    (s.rnd = [] → t.reg x = Config.rnd s.drawn &&& kk ∧ t.rnd = []) ∧
    t.drawn = s.drawn + 1 ∧ t.PC = s.PC + 2 ∧
    KeepsRegsBut [x] s t ∧ KeepsAllBut [.V, .PC, .random] s t

/-- A cycle consumes one Random byte if and only if it is a Running cycle that executes RND. Stated:
R130. -/
def Obligations.RandomConsumedOnlyByRnd : Prop :=
  ∀ s t : State, step s = .next t →
    ((∃ x kk, s.AtInstr (.rnd x kk)) → t.rnd = s.rnd.tail ∧ t.drawn = s.drawn + 1) ∧
    ((¬ ∃ x kk, s.AtInstr (.rnd x kk)) → t.rnd = s.rnd ∧ t.drawn = s.drawn)

/-- No instruction but RND depends on what the Random capability would return. Derived: 10_state.md
R43 (its reads column); 40_engine_cycle.md R130. -/
def Obligations.OnlyRndReadsTheRandomStream : Prop :=
  ∀ (i : Instr) (s t : State) (rnd : List Byte) (drawn : Nat), (∀ x kk, i ≠ .rnd x kk) →
    exec i s = .next t →
    exec i { s with rnd := rnd, drawn := drawn } = .next { t with rnd := rnd, drawn := drawn }

/-- No instruction's other effects depend on the sound timer, the dirty flag or the audio trace.
Derived: 10_state.md R33; 10_state.md R37 (D19); 10_state.md R40; 10_state.md R47. -/
def Obligations.NoInstructionReadsSoundTimerDirtyOrAudio : Prop :=
  ∀ (i : Instr) (s t : State) (st : Byte) (d : Bool) (a : List AudioEvent), exec i s = .next t →
    ∃ u, exec i { s with ST := st, dirty := d, audio := a } = .next u ∧
      { u with ST := t.ST, dirty := t.dirty, audio := t.audio } = t

/-- ADD I,Vx adds modulo 65536 without a flag; LD F,Vx points I at the glyph of a digit. Derived:
44_index_memory.md R181 (D13, D28); 44_index_memory.md R182 (D21). -/
def Obligations.AddIndexAndFontPointer : Prop :=
  ∀ (x : RegIdx) (s : State),
    (∃ t, exec (.addI x) s = .next t ∧ t.I.toNat = (s.I.toNat + (s.reg x).toNat) % 65536 ∧
      t.PC = s.PC + 2 ∧ KeepsAllBut [.I, .PC] s t) ∧
    ((s.reg x).toNat ≤ 15 → ∃ t, exec (.ldF x) s = .next t ∧ t.I.toNat = 5 * (s.reg x).toNat ∧
      t.PC = s.PC + 2 ∧ KeepsAllBut [.I, .PC] s t)

/-- LD B,Vx writes the hundreds, tens and ones of Vx at I, I+1, I+2 and nothing else. Derived:
44_index_memory.md R183 (I unchanged is D22); 20_memory.md R65 (D29). -/
def Obligations.BcdStoreWritesDigits : Prop :=
  ∀ (x : RegIdx) (s : State), s.I.toNat + 2 ≤ 4095 → ∃ t, exec (.ldB x) s = .next t ∧
    (t.byteAt s.I.toNat).toNat = (s.reg x).toNat / 100 ∧
    (t.byteAt (s.I.toNat + 1)).toNat = (s.reg x).toNat / 10 % 10 ∧
    (t.byteAt (s.I.toNat + 2)).toNat = (s.reg x).toNat % 10 ∧
    KeepsBytesOutside s.I.toNat 3 s t ∧ t.PC = s.PC + 2 ∧ KeepsAllBut [.mem, .PC] s t

/-- LD [I],Vx stores V0 to Vx at I upward and adds x + 1 to I, or raises DataBounds. Derived:
44_index_memory.md R185; 60_exceptions.md R224 (D1, D3); 60_exceptions.md R226 (D5). -/
def Obligations.RegisterDumpStoresAndAdvances : Prop :=
  ∀ (x : RegIdx) (s : State),
    (s.I.toNat + x.val ≤ 4095 → ∃ t, exec (.ldMemVx x) s = .next t ∧
      (∀ j : RegIdx, j ≤ x → t.byteAt (s.I.toNat + j.val) = s.reg j) ∧
      KeepsBytesOutside s.I.toNat (x.val + 1) s t ∧ t.I.toNat = s.I.toNat + (x.val + 1) ∧
      t.PC = s.PC + 2 ∧ KeepsAllBut [.mem, .I, .PC] s t) ∧
    (4095 < s.I.toNat + x.val → exec (.ldMemVx x) s = .next
      { s with halt := some ⟨.dataBounds, s.PC, encode (.ldMemVx x), s.SP,
          BitVec.ofNat 16 (max s.I.toNat 4096)⟩ })

/-- LD Vx,[I] loads V0 to Vx from I upward and adds x + 1 to I, or raises DataBounds. Derived:
44_index_memory.md R186; 60_exceptions.md R224 (D1, D3; log 8); 60_exceptions.md R226 (D5; log 25).
-/
def Obligations.RegisterLoadReadsAndAdvances : Prop :=
  ∀ (x : RegIdx) (s : State),
    (s.I.toNat + x.val ≤ 4095 → ∃ t, exec (.ldVxMem x) s = .next t ∧
      (∀ j : RegIdx, j ≤ x → t.reg j = s.byteAt (s.I.toNat + j.val)) ∧
      (∀ j : RegIdx, x < j → t.reg j = s.reg j) ∧ t.I.toNat = s.I.toNat + (x.val + 1) ∧
      t.PC = s.PC + 2 ∧ KeepsAllBut [.V, .I, .PC] s t) ∧
    (4095 < s.I.toNat + x.val → exec (.ldVxMem x) s = .next
      { s with halt := some ⟨.dataBounds, s.PC, encode (.ldVxMem x), s.SP,
          BitVec.ofNat 16 (max s.I.toNat 4096)⟩ })

/-- A register load after a dump of the same limit from the same index restores the registers.
Derived: 44_index_memory.md R186 (its round trip); 44_index_memory.md R185. -/
def Obligations.DumpThenLoadRestores : Prop :=
  ∀ (x : RegIdx) (s : State) (v : Vector Byte 16), s.I.toNat + x.val ≤ 4095 →
    ∃ t u, exec (.ldMemVx x) s = .next t ∧ exec (.ldVxMem x) { t with I := s.I, V := v } = .next u ∧
      (∀ j : RegIdx, j ≤ x → u.reg j = s.reg j) ∧ (∀ j : RegIdx, x < j → u.reg j = v[j]) ∧
      t.I.toNat = s.I.toNat + (x.val + 1) ∧ u.I = t.I

/-- A data access beyond 4095 writes the DataBounds record and nothing else. Derived:
60_exceptions.md R224 (D1, D3); 20_memory.md R69 (D3). -/
def Obligations.DataBoundsHalts : Prop :=
  ∀ (i : Instr) (s : State),
    ((∃ x, i = .ldB x ∧ 4095 < s.I.toNat + 2) ∨
      (∃ x : RegIdx, (i = .ldMemVx x ∨ i = .ldVxMem x) ∧ 4095 < s.I.toNat + x.val) ∨
      (∃ (x y : RegIdx) (n : Fin 16), i = .drw x y n ∧ 0 < n.val ∧ 4095 < s.I.toNat + n.val - 1)) →
    exec i s = .next
      { s with halt := some ⟨.dataBounds, s.PC, encode i, s.SP, BitVec.ofNat 16 (max s.I.toNat 4096)⟩ } ∧
      Fault.code .dataBounds = 4

/-- A program that stores two bytes and then executes them fetches V0 then V1. Derived: 20_memory.md
R67; 20_memory.md R74. -/
def Obligations.StoredBytesAreFetched : Prop :=
  ∀ (x : RegIdx) (s : State), 1 ≤ x.val → s.I.toNat + x.val ≤ 4095 → s.I.toNat < 4094 →
    ∃ t, exec (.ldMemVx x) s = .next t ∧
      ({ t with PC := s.I } : State).fetch? = some (s.reg 0 ++ s.reg 1)

/-- Two canonical memories with the same font that read alike are the same data (the model's choice
of form, log 27). Derived: 20_memory.md R60 (the bytes read; the cell list and its canonical form
are the model's choice, logs 27 and 2). -/
def Obligations.CanonicalMemoriesAreDeterminedByReads : Prop :=
  ∀ m n : Memory, m.wf → n.wf → m.font = n.font → (∀ a, m.read a = n.read a) → m = n

/-- CLS unsets every pixel, sets dirty and advances PC by 2. Derived: 45_display.md R190 (D19);
45_display.md R195 (D19). -/
def Obligations.ClsClearsEveryPixel : Prop :=
  ∀ s : State, ∃ t, exec .cls s = .next t ∧ (∀ row col, t.pixel row col = false) ∧
    t.dirty = true ∧ t.PC = s.PC + 2 ∧ KeepsAllBut [.fb, .dirty, .PC] s t

/-- DRW XORs the sprite into the grid pixel by pixel and VF reports a collision. Derived:
45_display.md R191 (D18); 45_display.md R192; 45_display.md R194. -/
def Obligations.DrwXorsTheSprite : Prop :=
  ∀ (x y : RegIdx) (n : Fin 16) (s : State), n.val = 0 ∨ s.I.toNat + n.val - 1 ≤ 4095 →
    ∃ t, exec (.drw x y n) s = .next t ∧
      (∀ row col, t.pixel row col =
        (s.pixel row col != s.spriteBit (s.reg x).toNat (s.reg y).toNat n.val row col)) ∧
      (t.reg 15 = 0 ∨ t.reg 15 = 1) ∧
      (t.reg 15 = 1 ↔ ∃ row col, s.pixel row col = true ∧
        s.spriteBit (s.reg x).toNat (s.reg y).toNat n.val row col = true) ∧
      t.dirty = true ∧ t.PC = s.PC + 2 ∧ KeepsRegsBut [15] s t ∧
      KeepsAllBut [.fb, .V, .dirty, .PC] s t

/-- A sprite that starts right of column 63 or below row 31, or has no rows, changes no pixel.
Derived: 45_display.md R193 (D18). -/
def Obligations.DrwOffTheGridDrawsNothing : Prop :=
  ∀ (x y : RegIdx) (n : Fin 16) (s : State), n.val = 0 ∨ s.I.toNat + n.val - 1 ≤ 4095 →
    64 ≤ (s.reg x).toNat ∨ 32 ≤ (s.reg y).toNat ∨ n.val = 0 →
    ∃ t, exec (.drw x y n) s = .next t ∧ t.fb = s.fb ∧ t.reg 15 = 0 ∧ t.dirty = true

/-- Drawing the identical sprite at the same location again restores the framebuffer and reports the
collision. Derived: 45_display.md R194 (its source property); 95_test_vectors.md S6. -/
def Obligations.DrwTwiceCancels : Prop :=
  ∀ (x y : RegIdx) (n : Fin 16) (s : State), n.val = 0 ∨ s.I.toNat + n.val - 1 ≤ 4095 →
    ∃ t u, exec (.drw x y n) s = .next t ∧ exec (.drw x y n) { t with V := s.V } = .next u ∧
      u.fb = s.fb ∧
      ((∀ row col, s.pixel row col = false) →
        (u.reg 15 = 1 ↔ ∃ row col,
          s.spriteBit (s.reg x).toNat (s.reg y).toNat n.val row col = true))

/-- The effects of LD Vx,DT, LD DT,Vx, LD ST,Vx and LD Vx,K before the tick. Derived:
46_timer_key.md R200 (D20); 46_timer_key.md R201 (D20); 46_timer_key.md R202 (D20); 46_timer_key.md
R203 (D17). -/
def Obligations.TimerAndKeyWaitInstructions : Prop :=
  ∀ (x : RegIdx) (s : State),
    (∃ t, exec (.ldVxDt x) s = .next t ∧ t.reg x = s.DT ∧ t.PC = s.PC + 2 ∧
      KeepsRegsBut [x] s t ∧ KeepsAllBut [.V, .PC] s t) ∧
    (∃ t, exec (.ldDtVx x) s = .next t ∧ t.DT = s.reg x ∧ t.PC = s.PC + 2 ∧
      KeepsAllBut [.DT, .PC] s t) ∧
    (∃ t, exec (.ldStVx x) s = .next t ∧ t.ST = s.reg x ∧ t.PC = s.PC + 2 ∧
      KeepsAllBut [.ST, .PC] s t) ∧
    (∃ t, exec (.ldVxK x) s = .next t ∧ t.wait = some x ∧ t.PC = s.PC + 2 ∧
      KeepsAllBut [.wait, .PC] s t)

/-- While waiting, only the timers, the waiting register and wait change. Stated: R39. -/
def Obligations.WaitingChangesOnlyTimersAndTarget : Prop :=
  ∀ (s t : State) (r : RegIdx), s.halt = none → s.wait = some r → step s = .next t →
    KeepsAllBut [.V, .wait, .DT, .ST, .audio] s t ∧ KeepsRegsBut [r] s t ∧
    ((∀ k : RegIdx, s.key[k] = false) → t.reg r = s.reg r ∧ t.wait = some r)

/-- A waiting cycle that finds keys pressed stores the lowest one and ends the wait. Derived:
40_engine_cycle.md R123 (D7, D17). -/
def Obligations.WaitingStoresLowestPressedKey : Prop :=
  ∀ (s : State) (r k : RegIdx), s.halt = none → s.wait = some r → s.key[k] = true →
    (∀ j : RegIdx, j < k → s.key[j] = false) →
    ∃ t, step s = .next t ∧ (t.reg r).toNat = k.val ∧ t.wait = none ∧ t.PC = s.PC ∧
      KeepsRegsBut [r] s t ∧ t.DT.toNat = s.DT.toNat - 1 ∧ t.ST.toNat = s.ST.toNat - 1 ∧
      t.audio = s.audio ++ (if s.ST = 1 then [.beginTone] else [])

/-- With no key pressed the engine stays waiting for any number of cycles while the timers run down.
Derived: 70_reset_and_hazards.md R273; 40_engine_cycle.md R123 (D7); 95_test_vectors.md S10. -/
def Obligations.WaitLastsWhileNoKeyIsPressed : Prop :=
  ∀ (k : Nat) (s : State) (r : RegIdx), s.halt = none → s.wait = some r →
    (∀ j : RegIdx, s.key[j] = false) →
    ∃ t, Host.Core.run Sys2Proof.core k s = .next t ∧ KeepsAllBut [.DT, .ST, .audio] s t ∧
      t.DT.toNat = s.DT.toNat - k ∧ t.ST.toNat = s.ST.toNat - k ∧
      t.audio = s.audio ++ (if 1 ≤ s.ST.toNat ∧ s.ST.toNat ≤ k then [.beginTone] else [])

/-- The reset state, and every constructed state, meets the invariant. Derived: 10_state.md R44;
10_state.md R26; 60_exceptions.md R228. -/
def Obligations.ResetMeetsTheInvariant : Prop :=
  Inv State.reset ∧ ∀ (font : Vector Byte 80) (rnd : List Byte), Inv (State.construct font rnd)

/-- Every step keeps the invariant. Derived: 10_state.md R26; 20_memory.md R60; 41_flow.md R141;
60_exceptions.md R226; 60_exceptions.md R228. -/
def Obligations.StepKeepsTheInvariant : Prop :=
  ∀ s t : State, Inv s → step s = .next t → Inv t

/-- Every host operation keeps the invariant, so every reachable state meets it. Derived:
60_exceptions.md R236 (D32); 20_memory.md R71; 10_state.md R26. -/
def Obligations.EveryHostRunKeepsTheInvariant : Prop :=
  (∀ (s : State) (op : HostOp), Inv s → Inv (s.applyHostOp op)) ∧
    ∀ (font : Vector Byte 80) (rnd : List Byte) (ops : List HostOp),
      Inv ((State.construct font rnd).runOps ops)

/-- Reset gives every part of the state its reset value, from any state. Derived: 10_state.md R44
(D24); 70_reset_and_hazards.md R260 (D24). -/
def Obligations.ResetRestoresEveryValue : Prop :=
  ∀ s t : State, t = s.hostReset ∨ t = State.reset →
    (∀ (a : Nat) (h : a < 80), t.byteAt a = t.mem.font[a]) ∧ (∀ a, 80 ≤ a → t.byteAt a = 0) ∧
    (∀ r, t.reg r = 0) ∧ t.I = 0 ∧ t.PC = 0x200 ∧ (∀ j : Fin 16, t.stack[j] = 0) ∧ t.SP = 0 ∧
    t.DT = 0 ∧ t.ST = 0 ∧ (∀ row col, t.pixel row col = false) ∧ t.dirty = false ∧
    (∀ k : RegIdx, t.key[k] = false) ∧ t.wait = none ∧ t.halt = none ∧
    (t = s.hostReset → t.mem.font = s.mem.font ∧ t.rnd = s.rnd ∧ t.drawn = s.drawn ∧
      t.audio = s.audio)

/-- load copies at most 3584 bytes to 0x200 upward and nothing else, and rejects a larger program.
Derived: 70_reset_and_hazards.md R263 (D25); 70_reset_and_hazards.md R262; 20_memory.md R66. -/
def Obligations.LoadCopiesTheProgram : Prop :=
  ∀ (s : State) (bytes : List Byte),
    (bytes.length ≤ 3584 → ∃ t, s.load bytes = .ok t ∧ s.applyHostOp (.load bytes) = t ∧
      (∀ (j : Nat) (h : j < bytes.length), t.byteAt (0x200 + j) = bytes[j]) ∧
      KeepsBytesOutside 0x200 bytes.length s t ∧ KeepsAllBut [.mem] s t) ∧
    (3584 < bytes.length →
      s.load bytes = .error .loadTooLarge ∧ s.applyHostOp (.load bytes) = s) ∧
    (∀ b0 b1 rest, bytes = b0 :: b1 :: rest → bytes.length ≤ 3584 →
      ∃ t, s.hostReset.load bytes = .ok t ∧ t.fetch? = some (b0 ++ b1))

/-- press_key and release_key set one key, idempotently, and nothing else. Stated: R240; R241. -/
def Obligations.KeyOperationsSetOneKey : Prop :=
  ∀ (s : State) (k : RegIdx),
    (∀ j : RegIdx, (s.pressKey k).key[j] = (if j = k then true else s.key[j]) ∧
      (s.releaseKey k).key[j] = (if j = k then false else s.key[j])) ∧
    KeepsAllBut [.key] s (s.pressKey k) ∧ KeepsAllBut [.key] s (s.releaseKey k) ∧
    (s.pressKey k).pressKey k = s.pressKey k ∧ (s.releaseKey k).releaseKey k = s.releaseKey k ∧
    (s.key[k] = false → (s.pressKey k).releaseKey k = s) ∧
    (∀ r, s.halt = none → s.wait = some r →
      (s.pressKey k).wait = some r ∧ ∃ t, step (s.pressKey k) = .next t ∧ t.wait = none)

/-- CLS and DRW set the redraw flag, no cycle clears it, only ack_redraw and reset do; no cycle
changes the key latch. Derived: 10_state.md R37 (D19); 45_display.md R195 (D19); 60_exceptions.md
R243 (D19); 40_engine_cycle.md R132. -/
def Obligations.RedrawFlagIsSticky : Prop :=
  (∀ s t : State, step s = .next t →
      (s.dirty = true → t.dirty = true) ∧ t.key = s.key ∧
      (s.AtInstr .cls → t.dirty = true) ∧
      (∀ x y n, s.AtInstr (.drw x y n) → t.halt = none → t.dirty = true)) ∧
    (∀ (s : State) (op : HostOp), op ≠ .ackRedraw → op ≠ .reset → s.dirty = true →
      (s.applyHostOp op).dirty = true) ∧
    (∀ s : State, s.needsRedraw = s.dirty ∧ s.framebufferSnapshot = s.fb ∧
      s.ackRedraw.dirty = false ∧ KeepsAllBut [.dirty] s s.ackRedraw ∧ s.hostReset.dirty = false)
end

