-- ==== Sys2Proof/Laws/State.lean ====
section
/-! SUPPORT. One lemma per field per update of the state, so that no later proof unfolds a record
update, and the lemmas of the register accessors. -/

namespace Sys2Proof.Machine

@[simp] theorem State.setReg_mem (s : State) (x : RegIdx) (b : Byte) : (s.setReg x b).mem =
    s.mem := rfl
@[simp] theorem State.setReg_V (s : State) (x : RegIdx) (b : Byte) : (s.setReg x b).V =
    s.V.set x b := rfl
@[simp] theorem State.setReg_I (s : State) (x : RegIdx) (b : Byte) : (s.setReg x b).I = s.I := rfl
@[simp] theorem State.setReg_PC (s : State) (x : RegIdx) (b : Byte) : (s.setReg x b).PC =
    s.PC := rfl
@[simp] theorem State.setReg_stack (s : State) (x : RegIdx) (b : Byte) : (s.setReg x b).stack =
    s.stack := rfl
@[simp] theorem State.setReg_SP (s : State) (x : RegIdx) (b : Byte) : (s.setReg x b).SP =
    s.SP := rfl
@[simp] theorem State.setReg_DT (s : State) (x : RegIdx) (b : Byte) : (s.setReg x b).DT =
    s.DT := rfl
@[simp] theorem State.setReg_ST (s : State) (x : RegIdx) (b : Byte) : (s.setReg x b).ST =
    s.ST := rfl
@[simp] theorem State.setReg_fb (s : State) (x : RegIdx) (b : Byte) : (s.setReg x b).fb =
    s.fb := rfl
@[simp] theorem State.setReg_dirty (s : State) (x : RegIdx) (b : Byte) : (s.setReg x b).dirty =
    s.dirty := rfl
@[simp] theorem State.setReg_key (s : State) (x : RegIdx) (b : Byte) : (s.setReg x b).key =
    s.key := rfl
@[simp] theorem State.setReg_wait (s : State) (x : RegIdx) (b : Byte) : (s.setReg x b).wait =
    s.wait := rfl
@[simp] theorem State.setReg_halt (s : State) (x : RegIdx) (b : Byte) : (s.setReg x b).halt =
    s.halt := rfl
@[simp] theorem State.setReg_rnd (s : State) (x : RegIdx) (b : Byte) : (s.setReg x b).rnd =
    s.rnd := rfl
@[simp] theorem State.setReg_drawn (s : State) (x : RegIdx) (b : Byte) : (s.setReg x b).drawn =
    s.drawn := rfl
@[simp] theorem State.setReg_audio (s : State) (x : RegIdx) (b : Byte) : (s.setReg x b).audio =
    s.audio := rfl

@[simp] theorem State.next_mem (s : State) : (s.next).mem = s.mem := rfl
@[simp] theorem State.next_V (s : State) : (s.next).V = s.V := rfl
@[simp] theorem State.next_I (s : State) : (s.next).I = s.I := rfl
@[simp] theorem State.next_PC (s : State) : (s.next).PC = s.PC + 2 := rfl
@[simp] theorem State.next_stack (s : State) : (s.next).stack = s.stack := rfl
@[simp] theorem State.next_SP (s : State) : (s.next).SP = s.SP := rfl
@[simp] theorem State.next_DT (s : State) : (s.next).DT = s.DT := rfl
@[simp] theorem State.next_ST (s : State) : (s.next).ST = s.ST := rfl
@[simp] theorem State.next_fb (s : State) : (s.next).fb = s.fb := rfl
@[simp] theorem State.next_dirty (s : State) : (s.next).dirty = s.dirty := rfl
@[simp] theorem State.next_key (s : State) : (s.next).key = s.key := rfl
@[simp] theorem State.next_wait (s : State) : (s.next).wait = s.wait := rfl
@[simp] theorem State.next_halt (s : State) : (s.next).halt = s.halt := rfl
@[simp] theorem State.next_rnd (s : State) : (s.next).rnd = s.rnd := rfl
@[simp] theorem State.next_drawn (s : State) : (s.next).drawn = s.drawn := rfl
@[simp] theorem State.next_audio (s : State) : (s.next).audio = s.audio := rfl

@[simp] theorem State.skip_mem (s : State) : (s.skip).mem = s.mem := rfl
@[simp] theorem State.skip_V (s : State) : (s.skip).V = s.V := rfl
@[simp] theorem State.skip_I (s : State) : (s.skip).I = s.I := rfl
@[simp] theorem State.skip_PC (s : State) : (s.skip).PC = s.PC + 4 := rfl
@[simp] theorem State.skip_stack (s : State) : (s.skip).stack = s.stack := rfl
@[simp] theorem State.skip_SP (s : State) : (s.skip).SP = s.SP := rfl
@[simp] theorem State.skip_DT (s : State) : (s.skip).DT = s.DT := rfl
@[simp] theorem State.skip_ST (s : State) : (s.skip).ST = s.ST := rfl
@[simp] theorem State.skip_fb (s : State) : (s.skip).fb = s.fb := rfl
@[simp] theorem State.skip_dirty (s : State) : (s.skip).dirty = s.dirty := rfl
@[simp] theorem State.skip_key (s : State) : (s.skip).key = s.key := rfl
@[simp] theorem State.skip_wait (s : State) : (s.skip).wait = s.wait := rfl
@[simp] theorem State.skip_halt (s : State) : (s.skip).halt = s.halt := rfl
@[simp] theorem State.skip_rnd (s : State) : (s.skip).rnd = s.rnd := rfl
@[simp] theorem State.skip_drawn (s : State) : (s.skip).drawn = s.drawn := rfl
@[simp] theorem State.skip_audio (s : State) : (s.skip).audio = s.audio := rfl

@[simp] theorem State.jump_mem (s : State) (target : Word) : (s.jump target).mem = s.mem := rfl
@[simp] theorem State.jump_V (s : State) (target : Word) : (s.jump target).V = s.V := rfl
@[simp] theorem State.jump_I (s : State) (target : Word) : (s.jump target).I = s.I := rfl
@[simp] theorem State.jump_PC (s : State) (target : Word) : (s.jump target).PC = target := rfl
@[simp] theorem State.jump_stack (s : State) (target : Word) : (s.jump target).stack =
    s.stack := rfl
@[simp] theorem State.jump_SP (s : State) (target : Word) : (s.jump target).SP = s.SP := rfl
@[simp] theorem State.jump_DT (s : State) (target : Word) : (s.jump target).DT = s.DT := rfl
@[simp] theorem State.jump_ST (s : State) (target : Word) : (s.jump target).ST = s.ST := rfl
@[simp] theorem State.jump_fb (s : State) (target : Word) : (s.jump target).fb = s.fb := rfl
@[simp] theorem State.jump_dirty (s : State) (target : Word) : (s.jump target).dirty =
    s.dirty := rfl
@[simp] theorem State.jump_key (s : State) (target : Word) : (s.jump target).key = s.key := rfl
@[simp] theorem State.jump_wait (s : State) (target : Word) : (s.jump target).wait = s.wait := rfl
@[simp] theorem State.jump_halt (s : State) (target : Word) : (s.jump target).halt = s.halt := rfl
@[simp] theorem State.jump_rnd (s : State) (target : Word) : (s.jump target).rnd = s.rnd := rfl
@[simp] theorem State.jump_drawn (s : State) (target : Word) : (s.jump target).drawn =
    s.drawn := rfl
@[simp] theorem State.jump_audio (s : State) (target : Word) : (s.jump target).audio =
    s.audio := rfl

@[simp] theorem State.raise_mem (s : State) (f : Fault) (op a : Word) : (s.raise f op a).mem =
    s.mem := rfl
@[simp] theorem State.raise_V (s : State) (f : Fault) (op a : Word) : (s.raise f op a).V =
    s.V := rfl
@[simp] theorem State.raise_I (s : State) (f : Fault) (op a : Word) : (s.raise f op a).I =
    s.I := rfl
@[simp] theorem State.raise_PC (s : State) (f : Fault) (op a : Word) : (s.raise f op a).PC =
    s.PC := rfl
@[simp] theorem State.raise_stack (s : State) (f : Fault) (op a : Word) : (s.raise f op a).stack =
    s.stack := rfl
@[simp] theorem State.raise_SP (s : State) (f : Fault) (op a : Word) : (s.raise f op a).SP =
    s.SP := rfl
@[simp] theorem State.raise_DT (s : State) (f : Fault) (op a : Word) : (s.raise f op a).DT =
    s.DT := rfl
@[simp] theorem State.raise_ST (s : State) (f : Fault) (op a : Word) : (s.raise f op a).ST =
    s.ST := rfl
@[simp] theorem State.raise_fb (s : State) (f : Fault) (op a : Word) : (s.raise f op a).fb =
    s.fb := rfl
@[simp] theorem State.raise_dirty (s : State) (f : Fault) (op a : Word) : (s.raise f op a).dirty =
    s.dirty := rfl
@[simp] theorem State.raise_key (s : State) (f : Fault) (op a : Word) : (s.raise f op a).key =
    s.key := rfl
@[simp] theorem State.raise_wait (s : State) (f : Fault) (op a : Word) : (s.raise f op a).wait =
    s.wait := rfl
@[simp] theorem State.raise_halt (s : State) (f : Fault) (op a : Word) : (s.raise f op a).halt =
    some ⟨f, s.PC, op, s.SP, a⟩ := rfl
@[simp] theorem State.raise_rnd (s : State) (f : Fault) (op a : Word) : (s.raise f op a).rnd =
    s.rnd := rfl
@[simp] theorem State.raise_drawn (s : State) (f : Fault) (op a : Word) : (s.raise f op a).drawn =
    s.drawn := rfl
@[simp] theorem State.raise_audio (s : State) (f : Fault) (op a : Word) : (s.raise f op a).audio =
    s.audio := rfl

@[simp] theorem State.storeRun_mem (s : State) (a : Nat) (bs : List Byte) : (s.storeRun a bs).mem =
    s.mem.writeRun a bs := rfl
@[simp] theorem State.storeRun_V (s : State) (a : Nat) (bs : List Byte) : (s.storeRun a bs).V =
    s.V := rfl
@[simp] theorem State.storeRun_I (s : State) (a : Nat) (bs : List Byte) : (s.storeRun a bs).I =
    s.I := rfl
@[simp] theorem State.storeRun_PC (s : State) (a : Nat) (bs : List Byte) : (s.storeRun a bs).PC =
    s.PC := rfl
@[simp] theorem State.storeRun_stack (s : State) (a : Nat) (bs : List Byte) : (s.storeRun a bs).stack =
    s.stack := rfl
@[simp] theorem State.storeRun_SP (s : State) (a : Nat) (bs : List Byte) : (s.storeRun a bs).SP =
    s.SP := rfl
@[simp] theorem State.storeRun_DT (s : State) (a : Nat) (bs : List Byte) : (s.storeRun a bs).DT =
    s.DT := rfl
@[simp] theorem State.storeRun_ST (s : State) (a : Nat) (bs : List Byte) : (s.storeRun a bs).ST =
    s.ST := rfl
@[simp] theorem State.storeRun_fb (s : State) (a : Nat) (bs : List Byte) : (s.storeRun a bs).fb =
    s.fb := rfl
@[simp] theorem State.storeRun_dirty (s : State) (a : Nat) (bs : List Byte) : (s.storeRun a bs).dirty =
    s.dirty := rfl
@[simp] theorem State.storeRun_key (s : State) (a : Nat) (bs : List Byte) : (s.storeRun a bs).key =
    s.key := rfl
@[simp] theorem State.storeRun_wait (s : State) (a : Nat) (bs : List Byte) : (s.storeRun a bs).wait =
    s.wait := rfl
@[simp] theorem State.storeRun_halt (s : State) (a : Nat) (bs : List Byte) : (s.storeRun a bs).halt =
    s.halt := rfl
@[simp] theorem State.storeRun_rnd (s : State) (a : Nat) (bs : List Byte) : (s.storeRun a bs).rnd =
    s.rnd := rfl
@[simp] theorem State.storeRun_drawn (s : State) (a : Nat) (bs : List Byte) : (s.storeRun a bs).drawn =
    s.drawn := rfl
@[simp] theorem State.storeRun_audio (s : State) (a : Nat) (bs : List Byte) : (s.storeRun a bs).audio =
    s.audio := rfl

@[simp] theorem State.emitTone_mem (s : State) : (s.emitTone).mem = s.mem := rfl
@[simp] theorem State.emitTone_V (s : State) : (s.emitTone).V = s.V := rfl
@[simp] theorem State.emitTone_I (s : State) : (s.emitTone).I = s.I := rfl
@[simp] theorem State.emitTone_PC (s : State) : (s.emitTone).PC = s.PC := rfl
@[simp] theorem State.emitTone_stack (s : State) : (s.emitTone).stack = s.stack := rfl
@[simp] theorem State.emitTone_SP (s : State) : (s.emitTone).SP = s.SP := rfl
@[simp] theorem State.emitTone_DT (s : State) : (s.emitTone).DT = s.DT := rfl
@[simp] theorem State.emitTone_ST (s : State) : (s.emitTone).ST = s.ST := rfl
@[simp] theorem State.emitTone_fb (s : State) : (s.emitTone).fb = s.fb := rfl
@[simp] theorem State.emitTone_dirty (s : State) : (s.emitTone).dirty = s.dirty := rfl
@[simp] theorem State.emitTone_key (s : State) : (s.emitTone).key = s.key := rfl
@[simp] theorem State.emitTone_wait (s : State) : (s.emitTone).wait = s.wait := rfl
@[simp] theorem State.emitTone_halt (s : State) : (s.emitTone).halt = s.halt := rfl
@[simp] theorem State.emitTone_rnd (s : State) : (s.emitTone).rnd = s.rnd := rfl
@[simp] theorem State.emitTone_drawn (s : State) : (s.emitTone).drawn = s.drawn := rfl
@[simp] theorem State.emitTone_audio (s : State) : (s.emitTone).audio =
    s.audio ++ [.beginTone] := rfl

@[simp] theorem State.tickDelay_mem (s : State) : (s.tickDelay).mem = s.mem := rfl
@[simp] theorem State.tickDelay_V (s : State) : (s.tickDelay).V = s.V := rfl
@[simp] theorem State.tickDelay_I (s : State) : (s.tickDelay).I = s.I := rfl
@[simp] theorem State.tickDelay_PC (s : State) : (s.tickDelay).PC = s.PC := rfl
@[simp] theorem State.tickDelay_stack (s : State) : (s.tickDelay).stack = s.stack := rfl
@[simp] theorem State.tickDelay_SP (s : State) : (s.tickDelay).SP = s.SP := rfl
@[simp] theorem State.tickDelay_DT (s : State) : (s.tickDelay).DT =
    if s.DT = 0 then 0 else s.DT - 1 := rfl
@[simp] theorem State.tickDelay_ST (s : State) : (s.tickDelay).ST = s.ST := rfl
@[simp] theorem State.tickDelay_fb (s : State) : (s.tickDelay).fb = s.fb := rfl
@[simp] theorem State.tickDelay_dirty (s : State) : (s.tickDelay).dirty = s.dirty := rfl
@[simp] theorem State.tickDelay_key (s : State) : (s.tickDelay).key = s.key := rfl
@[simp] theorem State.tickDelay_wait (s : State) : (s.tickDelay).wait = s.wait := rfl
@[simp] theorem State.tickDelay_halt (s : State) : (s.tickDelay).halt = s.halt := rfl
@[simp] theorem State.tickDelay_rnd (s : State) : (s.tickDelay).rnd = s.rnd := rfl
@[simp] theorem State.tickDelay_drawn (s : State) : (s.tickDelay).drawn = s.drawn := rfl
@[simp] theorem State.tickDelay_audio (s : State) : (s.tickDelay).audio = s.audio := rfl

@[simp] theorem State.drawRandom_mem (s : State) : (s.drawRandom).mem = s.mem := rfl
@[simp] theorem State.drawRandom_V (s : State) : (s.drawRandom).V = s.V := rfl
@[simp] theorem State.drawRandom_I (s : State) : (s.drawRandom).I = s.I := rfl
@[simp] theorem State.drawRandom_PC (s : State) : (s.drawRandom).PC = s.PC := rfl
@[simp] theorem State.drawRandom_stack (s : State) : (s.drawRandom).stack = s.stack := rfl
@[simp] theorem State.drawRandom_SP (s : State) : (s.drawRandom).SP = s.SP := rfl
@[simp] theorem State.drawRandom_DT (s : State) : (s.drawRandom).DT = s.DT := rfl
@[simp] theorem State.drawRandom_ST (s : State) : (s.drawRandom).ST = s.ST := rfl
@[simp] theorem State.drawRandom_fb (s : State) : (s.drawRandom).fb = s.fb := rfl
@[simp] theorem State.drawRandom_dirty (s : State) : (s.drawRandom).dirty = s.dirty := rfl
@[simp] theorem State.drawRandom_key (s : State) : (s.drawRandom).key = s.key := rfl
@[simp] theorem State.drawRandom_wait (s : State) : (s.drawRandom).wait = s.wait := rfl
@[simp] theorem State.drawRandom_halt (s : State) : (s.drawRandom).halt = s.halt := rfl
@[simp] theorem State.drawRandom_rnd (s : State) : (s.drawRandom).rnd = s.rnd.tail := rfl
@[simp] theorem State.drawRandom_drawn (s : State) : (s.drawRandom).drawn = s.drawn + 1 := rfl
@[simp] theorem State.drawRandom_audio (s : State) : (s.drawRandom).audio = s.audio := rfl

@[simp] theorem State.advanceI_mem (s : State) (x : RegIdx) : (s.advanceI x).mem = s.mem := rfl
@[simp] theorem State.advanceI_V (s : State) (x : RegIdx) : (s.advanceI x).V = s.V := rfl
@[simp] theorem State.advanceI_I (s : State) (x : RegIdx) : (s.advanceI x).I =
    s.I + BitVec.ofNat 16 (x.val + 1) := rfl
@[simp] theorem State.advanceI_PC (s : State) (x : RegIdx) : (s.advanceI x).PC = s.PC := rfl
@[simp] theorem State.advanceI_stack (s : State) (x : RegIdx) : (s.advanceI x).stack =
    s.stack := rfl
@[simp] theorem State.advanceI_SP (s : State) (x : RegIdx) : (s.advanceI x).SP = s.SP := rfl
@[simp] theorem State.advanceI_DT (s : State) (x : RegIdx) : (s.advanceI x).DT = s.DT := rfl
@[simp] theorem State.advanceI_ST (s : State) (x : RegIdx) : (s.advanceI x).ST = s.ST := rfl
@[simp] theorem State.advanceI_fb (s : State) (x : RegIdx) : (s.advanceI x).fb = s.fb := rfl
@[simp] theorem State.advanceI_dirty (s : State) (x : RegIdx) : (s.advanceI x).dirty =
    s.dirty := rfl
@[simp] theorem State.advanceI_key (s : State) (x : RegIdx) : (s.advanceI x).key = s.key := rfl
@[simp] theorem State.advanceI_wait (s : State) (x : RegIdx) : (s.advanceI x).wait = s.wait := rfl
@[simp] theorem State.advanceI_halt (s : State) (x : RegIdx) : (s.advanceI x).halt = s.halt := rfl
@[simp] theorem State.advanceI_rnd (s : State) (x : RegIdx) : (s.advanceI x).rnd = s.rnd := rfl
@[simp] theorem State.advanceI_drawn (s : State) (x : RegIdx) : (s.advanceI x).drawn =
    s.drawn := rfl
@[simp] theorem State.advanceI_audio (s : State) (x : RegIdx) : (s.advanceI x).audio =
    s.audio := rfl

@[simp] theorem State.loadRegs_mem (s : State) (x : RegIdx) : (s.loadRegs x).mem = s.mem := rfl
@[simp] theorem State.loadRegs_V (s : State) (x : RegIdx) : (s.loadRegs x).V =
    Vector.ofFn fun j => if j ≤ x then s.byteAt (s.dataAddr j.val) else s.reg j := rfl
@[simp] theorem State.loadRegs_I (s : State) (x : RegIdx) : (s.loadRegs x).I = s.I := rfl
@[simp] theorem State.loadRegs_PC (s : State) (x : RegIdx) : (s.loadRegs x).PC = s.PC := rfl
@[simp] theorem State.loadRegs_stack (s : State) (x : RegIdx) : (s.loadRegs x).stack =
    s.stack := rfl
@[simp] theorem State.loadRegs_SP (s : State) (x : RegIdx) : (s.loadRegs x).SP = s.SP := rfl
@[simp] theorem State.loadRegs_DT (s : State) (x : RegIdx) : (s.loadRegs x).DT = s.DT := rfl
@[simp] theorem State.loadRegs_ST (s : State) (x : RegIdx) : (s.loadRegs x).ST = s.ST := rfl
@[simp] theorem State.loadRegs_fb (s : State) (x : RegIdx) : (s.loadRegs x).fb = s.fb := rfl
@[simp] theorem State.loadRegs_dirty (s : State) (x : RegIdx) : (s.loadRegs x).dirty =
    s.dirty := rfl
@[simp] theorem State.loadRegs_key (s : State) (x : RegIdx) : (s.loadRegs x).key = s.key := rfl
@[simp] theorem State.loadRegs_wait (s : State) (x : RegIdx) : (s.loadRegs x).wait = s.wait := rfl
@[simp] theorem State.loadRegs_halt (s : State) (x : RegIdx) : (s.loadRegs x).halt = s.halt := rfl
@[simp] theorem State.loadRegs_rnd (s : State) (x : RegIdx) : (s.loadRegs x).rnd = s.rnd := rfl
@[simp] theorem State.loadRegs_drawn (s : State) (x : RegIdx) : (s.loadRegs x).drawn =
    s.drawn := rfl
@[simp] theorem State.loadRegs_audio (s : State) (x : RegIdx) : (s.loadRegs x).audio =
    s.audio := rfl

@[simp] theorem State.setFlag_mem (s : State) (f : Bool) : (s.setFlag f).mem = s.mem := rfl
@[simp] theorem State.setFlag_V (s : State) (f : Bool) : (s.setFlag f).V =
    s.V.set flagReg (flagByte f) := rfl
@[simp] theorem State.setFlag_I (s : State) (f : Bool) : (s.setFlag f).I = s.I := rfl
@[simp] theorem State.setFlag_PC (s : State) (f : Bool) : (s.setFlag f).PC = s.PC := rfl
@[simp] theorem State.setFlag_stack (s : State) (f : Bool) : (s.setFlag f).stack = s.stack := rfl
@[simp] theorem State.setFlag_SP (s : State) (f : Bool) : (s.setFlag f).SP = s.SP := rfl
@[simp] theorem State.setFlag_DT (s : State) (f : Bool) : (s.setFlag f).DT = s.DT := rfl
@[simp] theorem State.setFlag_ST (s : State) (f : Bool) : (s.setFlag f).ST = s.ST := rfl
@[simp] theorem State.setFlag_fb (s : State) (f : Bool) : (s.setFlag f).fb = s.fb := rfl
@[simp] theorem State.setFlag_dirty (s : State) (f : Bool) : (s.setFlag f).dirty = s.dirty := rfl
@[simp] theorem State.setFlag_key (s : State) (f : Bool) : (s.setFlag f).key = s.key := rfl
@[simp] theorem State.setFlag_wait (s : State) (f : Bool) : (s.setFlag f).wait = s.wait := rfl
@[simp] theorem State.setFlag_halt (s : State) (f : Bool) : (s.setFlag f).halt = s.halt := rfl
@[simp] theorem State.setFlag_rnd (s : State) (f : Bool) : (s.setFlag f).rnd = s.rnd := rfl
@[simp] theorem State.setFlag_drawn (s : State) (f : Bool) : (s.setFlag f).drawn = s.drawn := rfl
@[simp] theorem State.setFlag_audio (s : State) (f : Bool) : (s.setFlag f).audio = s.audio := rfl

@[simp] theorem State.setResultFlag_mem (s : State) (x : RegIdx) (r : Byte) (f : Bool) : (s.setResultFlag x r f).mem =
    s.mem := rfl
@[simp] theorem State.setResultFlag_V (s : State) (x : RegIdx) (r : Byte) (f : Bool) : (s.setResultFlag x r f).V =
    (s.V.set x r).set flagReg (flagByte f) := rfl
@[simp] theorem State.setResultFlag_I (s : State) (x : RegIdx) (r : Byte) (f : Bool) : (s.setResultFlag x r f).I =
    s.I := rfl
@[simp] theorem State.setResultFlag_PC (s : State) (x : RegIdx) (r : Byte) (f : Bool) : (s.setResultFlag x r f).PC =
    s.PC := rfl
@[simp] theorem State.setResultFlag_stack (s : State) (x : RegIdx) (r : Byte) (f : Bool) : (s.setResultFlag x r f).stack =
    s.stack := rfl
@[simp] theorem State.setResultFlag_SP (s : State) (x : RegIdx) (r : Byte) (f : Bool) : (s.setResultFlag x r f).SP =
    s.SP := rfl
@[simp] theorem State.setResultFlag_DT (s : State) (x : RegIdx) (r : Byte) (f : Bool) : (s.setResultFlag x r f).DT =
    s.DT := rfl
@[simp] theorem State.setResultFlag_ST (s : State) (x : RegIdx) (r : Byte) (f : Bool) : (s.setResultFlag x r f).ST =
    s.ST := rfl
@[simp] theorem State.setResultFlag_fb (s : State) (x : RegIdx) (r : Byte) (f : Bool) : (s.setResultFlag x r f).fb =
    s.fb := rfl
@[simp] theorem State.setResultFlag_dirty (s : State) (x : RegIdx) (r : Byte) (f : Bool) : (s.setResultFlag x r f).dirty =
    s.dirty := rfl
@[simp] theorem State.setResultFlag_key (s : State) (x : RegIdx) (r : Byte) (f : Bool) : (s.setResultFlag x r f).key =
    s.key := rfl
@[simp] theorem State.setResultFlag_wait (s : State) (x : RegIdx) (r : Byte) (f : Bool) : (s.setResultFlag x r f).wait =
    s.wait := rfl
@[simp] theorem State.setResultFlag_halt (s : State) (x : RegIdx) (r : Byte) (f : Bool) : (s.setResultFlag x r f).halt =
    s.halt := rfl
@[simp] theorem State.setResultFlag_rnd (s : State) (x : RegIdx) (r : Byte) (f : Bool) : (s.setResultFlag x r f).rnd =
    s.rnd := rfl
@[simp] theorem State.setResultFlag_drawn (s : State) (x : RegIdx) (r : Byte) (f : Bool) : (s.setResultFlag x r f).drawn =
    s.drawn := rfl
@[simp] theorem State.setResultFlag_audio (s : State) (x : RegIdx) (r : Byte) (f : Bool) : (s.setResultFlag x r f).audio =
    s.audio := rfl

@[simp] theorem State.pressKey_mem (s : State) (k : RegIdx) : (s.pressKey k).mem = s.mem := rfl
@[simp] theorem State.pressKey_V (s : State) (k : RegIdx) : (s.pressKey k).V = s.V := rfl
@[simp] theorem State.pressKey_I (s : State) (k : RegIdx) : (s.pressKey k).I = s.I := rfl
@[simp] theorem State.pressKey_PC (s : State) (k : RegIdx) : (s.pressKey k).PC = s.PC := rfl
@[simp] theorem State.pressKey_stack (s : State) (k : RegIdx) : (s.pressKey k).stack =
    s.stack := rfl
@[simp] theorem State.pressKey_SP (s : State) (k : RegIdx) : (s.pressKey k).SP = s.SP := rfl
@[simp] theorem State.pressKey_DT (s : State) (k : RegIdx) : (s.pressKey k).DT = s.DT := rfl
@[simp] theorem State.pressKey_ST (s : State) (k : RegIdx) : (s.pressKey k).ST = s.ST := rfl
@[simp] theorem State.pressKey_fb (s : State) (k : RegIdx) : (s.pressKey k).fb = s.fb := rfl
@[simp] theorem State.pressKey_dirty (s : State) (k : RegIdx) : (s.pressKey k).dirty =
    s.dirty := rfl
@[simp] theorem State.pressKey_key (s : State) (k : RegIdx) : (s.pressKey k).key =
    s.key.set k true := rfl
@[simp] theorem State.pressKey_wait (s : State) (k : RegIdx) : (s.pressKey k).wait = s.wait := rfl
@[simp] theorem State.pressKey_halt (s : State) (k : RegIdx) : (s.pressKey k).halt = s.halt := rfl
@[simp] theorem State.pressKey_rnd (s : State) (k : RegIdx) : (s.pressKey k).rnd = s.rnd := rfl
@[simp] theorem State.pressKey_drawn (s : State) (k : RegIdx) : (s.pressKey k).drawn =
    s.drawn := rfl
@[simp] theorem State.pressKey_audio (s : State) (k : RegIdx) : (s.pressKey k).audio =
    s.audio := rfl

@[simp] theorem State.releaseKey_mem (s : State) (k : RegIdx) : (s.releaseKey k).mem = s.mem := rfl
@[simp] theorem State.releaseKey_V (s : State) (k : RegIdx) : (s.releaseKey k).V = s.V := rfl
@[simp] theorem State.releaseKey_I (s : State) (k : RegIdx) : (s.releaseKey k).I = s.I := rfl
@[simp] theorem State.releaseKey_PC (s : State) (k : RegIdx) : (s.releaseKey k).PC = s.PC := rfl
@[simp] theorem State.releaseKey_stack (s : State) (k : RegIdx) : (s.releaseKey k).stack =
    s.stack := rfl
@[simp] theorem State.releaseKey_SP (s : State) (k : RegIdx) : (s.releaseKey k).SP = s.SP := rfl
@[simp] theorem State.releaseKey_DT (s : State) (k : RegIdx) : (s.releaseKey k).DT = s.DT := rfl
@[simp] theorem State.releaseKey_ST (s : State) (k : RegIdx) : (s.releaseKey k).ST = s.ST := rfl
@[simp] theorem State.releaseKey_fb (s : State) (k : RegIdx) : (s.releaseKey k).fb = s.fb := rfl
@[simp] theorem State.releaseKey_dirty (s : State) (k : RegIdx) : (s.releaseKey k).dirty =
    s.dirty := rfl
@[simp] theorem State.releaseKey_key (s : State) (k : RegIdx) : (s.releaseKey k).key =
    s.key.set k false := rfl
@[simp] theorem State.releaseKey_wait (s : State) (k : RegIdx) : (s.releaseKey k).wait =
    s.wait := rfl
@[simp] theorem State.releaseKey_halt (s : State) (k : RegIdx) : (s.releaseKey k).halt =
    s.halt := rfl
@[simp] theorem State.releaseKey_rnd (s : State) (k : RegIdx) : (s.releaseKey k).rnd = s.rnd := rfl
@[simp] theorem State.releaseKey_drawn (s : State) (k : RegIdx) : (s.releaseKey k).drawn =
    s.drawn := rfl
@[simp] theorem State.releaseKey_audio (s : State) (k : RegIdx) : (s.releaseKey k).audio =
    s.audio := rfl

@[simp] theorem State.ackRedraw_mem (s : State) : (s.ackRedraw).mem = s.mem := rfl
@[simp] theorem State.ackRedraw_V (s : State) : (s.ackRedraw).V = s.V := rfl
@[simp] theorem State.ackRedraw_I (s : State) : (s.ackRedraw).I = s.I := rfl
@[simp] theorem State.ackRedraw_PC (s : State) : (s.ackRedraw).PC = s.PC := rfl
@[simp] theorem State.ackRedraw_stack (s : State) : (s.ackRedraw).stack = s.stack := rfl
@[simp] theorem State.ackRedraw_SP (s : State) : (s.ackRedraw).SP = s.SP := rfl
@[simp] theorem State.ackRedraw_DT (s : State) : (s.ackRedraw).DT = s.DT := rfl
@[simp] theorem State.ackRedraw_ST (s : State) : (s.ackRedraw).ST = s.ST := rfl
@[simp] theorem State.ackRedraw_fb (s : State) : (s.ackRedraw).fb = s.fb := rfl
@[simp] theorem State.ackRedraw_dirty (s : State) : (s.ackRedraw).dirty = false := rfl
@[simp] theorem State.ackRedraw_key (s : State) : (s.ackRedraw).key = s.key := rfl
@[simp] theorem State.ackRedraw_wait (s : State) : (s.ackRedraw).wait = s.wait := rfl
@[simp] theorem State.ackRedraw_halt (s : State) : (s.ackRedraw).halt = s.halt := rfl
@[simp] theorem State.ackRedraw_rnd (s : State) : (s.ackRedraw).rnd = s.rnd := rfl
@[simp] theorem State.ackRedraw_drawn (s : State) : (s.ackRedraw).drawn = s.drawn := rfl
@[simp] theorem State.ackRedraw_audio (s : State) : (s.ackRedraw).audio = s.audio := rfl

@[simp] theorem State.skipIf_mem (s : State) (c : Bool) : (s.skipIf c).mem =
    s.mem := by cases c <;> rfl
@[simp] theorem State.skipIf_V (s : State) (c : Bool) : (s.skipIf c).V =
    s.V := by cases c <;> rfl
@[simp] theorem State.skipIf_I (s : State) (c : Bool) : (s.skipIf c).I =
    s.I := by cases c <;> rfl
@[simp] theorem State.skipIf_PC (s : State) (c : Bool) : (s.skipIf c).PC =
    if c then s.PC + 4 else s.PC + 2 := by cases c <;> rfl
@[simp] theorem State.skipIf_stack (s : State) (c : Bool) : (s.skipIf c).stack =
    s.stack := by cases c <;> rfl
@[simp] theorem State.skipIf_SP (s : State) (c : Bool) : (s.skipIf c).SP =
    s.SP := by cases c <;> rfl
@[simp] theorem State.skipIf_DT (s : State) (c : Bool) : (s.skipIf c).DT =
    s.DT := by cases c <;> rfl
@[simp] theorem State.skipIf_ST (s : State) (c : Bool) : (s.skipIf c).ST =
    s.ST := by cases c <;> rfl
@[simp] theorem State.skipIf_fb (s : State) (c : Bool) : (s.skipIf c).fb =
    s.fb := by cases c <;> rfl
@[simp] theorem State.skipIf_dirty (s : State) (c : Bool) : (s.skipIf c).dirty =
    s.dirty := by cases c <;> rfl
@[simp] theorem State.skipIf_key (s : State) (c : Bool) : (s.skipIf c).key =
    s.key := by cases c <;> rfl
@[simp] theorem State.skipIf_wait (s : State) (c : Bool) : (s.skipIf c).wait =
    s.wait := by cases c <;> rfl
@[simp] theorem State.skipIf_halt (s : State) (c : Bool) : (s.skipIf c).halt =
    s.halt := by cases c <;> rfl
@[simp] theorem State.skipIf_rnd (s : State) (c : Bool) : (s.skipIf c).rnd =
    s.rnd := by cases c <;> rfl
@[simp] theorem State.skipIf_drawn (s : State) (c : Bool) : (s.skipIf c).drawn =
    s.drawn := by cases c <;> rfl
@[simp] theorem State.skipIf_audio (s : State) (c : Bool) : (s.skipIf c).audio =
    s.audio := by cases c <;> rfl

@[simp] theorem State.tickSound_mem (s : State) : (s.tickSound).mem =
    s.mem := by unfold State.tickSound; split <;> simp_all
@[simp] theorem State.tickSound_V (s : State) : (s.tickSound).V =
    s.V := by unfold State.tickSound; split <;> simp_all
@[simp] theorem State.tickSound_I (s : State) : (s.tickSound).I =
    s.I := by unfold State.tickSound; split <;> simp_all
@[simp] theorem State.tickSound_PC (s : State) : (s.tickSound).PC =
    s.PC := by unfold State.tickSound; split <;> simp_all
@[simp] theorem State.tickSound_stack (s : State) : (s.tickSound).stack =
    s.stack := by unfold State.tickSound; split <;> simp_all
@[simp] theorem State.tickSound_SP (s : State) : (s.tickSound).SP =
    s.SP := by unfold State.tickSound; split <;> simp_all
@[simp] theorem State.tickSound_DT (s : State) : (s.tickSound).DT =
    s.DT := by unfold State.tickSound; split <;> simp_all
@[simp] theorem State.tickSound_ST (s : State) : (s.tickSound).ST =
    if s.ST = 0 then 0 else s.ST - 1 := by unfold State.tickSound; split <;> simp_all
@[simp] theorem State.tickSound_fb (s : State) : (s.tickSound).fb =
    s.fb := by unfold State.tickSound; split <;> simp_all
@[simp] theorem State.tickSound_dirty (s : State) : (s.tickSound).dirty =
    s.dirty := by unfold State.tickSound; split <;> simp_all
@[simp] theorem State.tickSound_key (s : State) : (s.tickSound).key =
    s.key := by unfold State.tickSound; split <;> simp_all
@[simp] theorem State.tickSound_wait (s : State) : (s.tickSound).wait =
    s.wait := by unfold State.tickSound; split <;> simp_all
@[simp] theorem State.tickSound_halt (s : State) : (s.tickSound).halt =
    s.halt := by unfold State.tickSound; split <;> simp_all
@[simp] theorem State.tickSound_rnd (s : State) : (s.tickSound).rnd =
    s.rnd := by unfold State.tickSound; split <;> simp_all
@[simp] theorem State.tickSound_drawn (s : State) : (s.tickSound).drawn =
    s.drawn := by unfold State.tickSound; split <;> simp_all
@[simp] theorem State.tickSound_audio (s : State) : (s.tickSound).audio =
    if s.ST = 1 then s.audio ++ [.beginTone] else s.audio := by unfold State.tickSound; split <;> simp_all

@[simp] theorem State.tick_mem (s : State) : s.tick.mem =
    s.mem := State.tickSound_mem s.tickDelay
@[simp] theorem State.tick_V (s : State) : s.tick.V =
    s.V := State.tickSound_V s.tickDelay
@[simp] theorem State.tick_I (s : State) : s.tick.I =
    s.I := State.tickSound_I s.tickDelay
@[simp] theorem State.tick_PC (s : State) : s.tick.PC =
    s.PC := State.tickSound_PC s.tickDelay
@[simp] theorem State.tick_stack (s : State) : s.tick.stack =
    s.stack := State.tickSound_stack s.tickDelay
@[simp] theorem State.tick_SP (s : State) : s.tick.SP =
    s.SP := State.tickSound_SP s.tickDelay
@[simp] theorem State.tick_DT (s : State) : s.tick.DT =
    if s.DT = 0 then 0 else s.DT - 1 := State.tickSound_DT s.tickDelay
@[simp] theorem State.tick_ST (s : State) : s.tick.ST =
    if s.ST = 0 then 0 else s.ST - 1 := State.tickSound_ST s.tickDelay
@[simp] theorem State.tick_fb (s : State) : s.tick.fb =
    s.fb := State.tickSound_fb s.tickDelay
@[simp] theorem State.tick_dirty (s : State) : s.tick.dirty =
    s.dirty := State.tickSound_dirty s.tickDelay
@[simp] theorem State.tick_key (s : State) : s.tick.key =
    s.key := State.tickSound_key s.tickDelay
@[simp] theorem State.tick_wait (s : State) : s.tick.wait =
    s.wait := State.tickSound_wait s.tickDelay
@[simp] theorem State.tick_halt (s : State) : s.tick.halt =
    s.halt := State.tickSound_halt s.tickDelay
@[simp] theorem State.tick_rnd (s : State) : s.tick.rnd =
    s.rnd := State.tickSound_rnd s.tickDelay
@[simp] theorem State.tick_drawn (s : State) : s.tick.drawn =
    s.drawn := State.tickSound_drawn s.tickDelay
@[simp] theorem State.tick_audio (s : State) : s.tick.audio =
    if s.ST = 1 then s.audio ++ [.beginTone] else s.audio := State.tickSound_audio s.tickDelay

/-! ### Register accessors -/

theorem State.reg_def (s : State) (x : RegIdx) : s.reg x = s.V[x] := rfl

theorem State.reg_congr {s t : State} (h : t.V = s.V) (x : RegIdx) : t.reg x = s.reg x := by
  simp [State.reg, h]

theorem State.reg_setReg (s : State) (x r : RegIdx) (b : Byte) :
    (s.setReg x b).reg r = if r = x then b else s.reg r := by
  simp only [State.reg, State.setReg, Fin.getElem_fin, Vector.getElem_set, Fin.ext_iff,
    eq_comm (a := r.val)]

/-- With `x = 15` the flag wins (spec/43_alu.md R172). -/
theorem State.reg_setResultFlag (s : State) (x r : RegIdx) (b : Byte) (f : Bool) :
    (s.setResultFlag x b f).reg r = if r = 15 then flagByte f else if r = x then b else s.reg r := by
  simp only [State.setResultFlag, State.setFlag, State.reg_setReg, flagReg]

theorem State.reg_setFlag (s : State) (r : RegIdx) (f : Bool) :
    (s.setFlag f).reg r = if r = 15 then flagByte f else s.reg r := by
  simp only [State.setFlag, State.reg_setReg, flagReg]

theorem State.reg_loadRegs (s : State) (x r : RegIdx) :
    (s.loadRegs x).reg r = if r ≤ x then s.byteAt (s.I.toNat + r.val) else s.reg r := by
  simp [State.reg, State.dataAddr]

theorem State.byteAt_congr {s t : State} (h : t.mem = s.mem) (a : Nat) :
    t.byteAt a = s.byteAt a := by simp [State.byteAt, h]

@[simp] theorem State.byteAt_tick (s : State) (a : Nat) : s.tick.byteAt a = s.byteAt a :=
  State.byteAt_congr (State.tick_mem s) a

@[simp] theorem State.byteAt_next (s : State) (a : Nat) : s.next.byteAt a = s.byteAt a := rfl

@[simp] theorem State.reg_tick (s : State) (x : RegIdx) : s.tick.reg x = s.reg x :=
  State.reg_congr (State.tick_V s) x

@[simp] theorem State.reg_next (s : State) (x : RegIdx) : s.next.reg x = s.reg x := rfl

end Sys2Proof.Machine
end

