-- ==== Sys2Proof/Laws/Cycle.lean ====
section
/-! SUPPORT. What one step can do, said once: the three bodies of a cycle, and the effects of the tick and the poll. -/

namespace Sys2Proof.Machine

theorem step_halted {s : State} (h : s.halt ≠ none) : step s = .next s := by
  have : s.halt.isSome = true := Option.isSome_iff_ne_none.mpr h
  simp [step, cycle, haltedCycle, this]

theorem step_waiting {s : State} {r : RegIdx} (h : s.halt = none) (hw : s.wait = some r) :
    step s = .next (s.poll r).tick := by
  simp [step, cycle, waitingCycle, h, hw]

theorem step_running {s : State} (h : s.Running) : step s = runningCycle s := by
  simp [step, cycle, h.1, h.2]

theorem fetch?_eq_some {s : State} (h : s.PC.toNat < 4094) : s.fetch? = some s.wordAtPC := by
  simp [State.fetch?, fetchable, State.wordAtPC, h]

theorem fetch?_eq_none {s : State} (h : 4094 ≤ s.PC.toNat) : s.fetch? = none := by
  simp [State.fetch?, fetchable]; omega

theorem step_fetchFault {s : State} (h : s.Running) (hpc : 4094 ≤ s.PC.toNat) :
    step s = .next (s.raise .fetchBounds 0 s.PC) := by
  simp [step_running h, runningCycle, fetch?_eq_none hpc]

theorem step_atInstr {s t : State} {i : Instr} (h : s.AtInstr i) (he : exec i s = .next t) :
    step s = .next t.tickUnlessHalted := by
  obtain ⟨hr, hpc, rfl⟩ := h
  simp [step_running hr, runningCycle, fetch?_eq_some hpc, he]

/-- What a step can do: nothing (Halted), a poll and a tick (WaitingForKey), the FetchBounds record, or
one instruction followed by the tick unless it faulted. -/
theorem step_cases {s t : State} (h : step s = .next t) :
    (s.halt ≠ none ∧ t = s) ∨
    (∃ r, s.halt = none ∧ s.wait = some r ∧ t = (s.poll r).tick) ∨
    (s.Running ∧ 4094 ≤ s.PC.toNat ∧ t = s.raise .fetchBounds 0 s.PC) ∨
    (∃ u, s.AtInstr (decode s.wordAtPC) ∧ exec (decode s.wordAtPC) s = .next u ∧
      t = u.tickUnlessHalted) := by
  by_cases hh : s.halt = none
  · cases hw : s.wait with
    | some r =>
      rw [step_waiting hh hw] at h
      exact .inr (.inl ⟨r, hh, rfl, by injection h with h; exact h.symm⟩)
    | none =>
      have hr : s.Running := ⟨hh, hw⟩
      by_cases hpc : 4094 ≤ s.PC.toNat
      · rw [step_fetchFault hr hpc] at h
        exact .inr (.inr (.inl ⟨hr, hpc, by injection h with h; exact h.symm⟩))
      · have ha : s.AtInstr (decode s.wordAtPC) := ⟨hr, by simpa using hpc, rfl⟩
        rw [step_running hr, runningCycle, fetch?_eq_some ha.2.1] at h
        cases hu : exec (decode s.wordAtPC) s with
        | next u =>
          simp only [hu] at h
          exact .inr (.inr (.inr ⟨u, ha, rfl, by injection h with h; exact h.symm⟩))
        | fault f => simp [hu] at h
        | refused f => simp [hu] at h
  · rw [step_halted hh] at h
    exact .inl ⟨hh, by injection h with h; exact h.symm⟩

theorem tickUnlessHalted_of_safe {t : State} (h : t.halt = none) : t.tickUnlessHalted = t.tick := by
  simp [State.tickUnlessHalted, h]

theorem tickUnlessHalted_of_halted {t : State} (h : t.halt ≠ none) : t.tickUnlessHalted = t := by
  have : t.halt.isSome = true := Option.isSome_iff_ne_none.mpr h
  simp [State.tickUnlessHalted, this]

@[simp] theorem State.tickUnlessHalted_halt (t : State) : t.tickUnlessHalted.halt = t.halt := by
  unfold State.tickUnlessHalted; split <;> simp

/-- The delay timer after a tick, as numbers (spec/40_engine_cycle.md R126). -/
theorem State.tick_DT_toNat (s : State) : s.tick.DT.toNat = s.DT.toNat - 1 := by
  rw [State.tick_DT]
  split
  · next h => simp [h]
  · next h => have : s.DT ≠ 0 := h; bv_omega

/-- The sound timer after a tick, as numbers (spec/40_engine_cycle.md R127). -/
theorem State.tick_ST_toNat (s : State) : s.tick.ST.toNat = s.ST.toNat - 1 := by
  rw [State.tick_ST]
  split
  · next h => simp [h]
  · next h => have : s.ST ≠ 0 := h; bv_omega

/-- A poll that finds no key changes nothing. -/
theorem State.poll_of_none {s : State} {r : RegIdx} (h : lowestKey s.key = none) : s.poll r = s := by
  simp [State.poll, h]

/-- A poll that finds a key stores it and ends the wait. -/
theorem State.poll_of_some {s : State} {r k : RegIdx} (h : lowestKey s.key = some k) :
    s.poll r = { s.setReg r (BitVec.ofNat 8 k.val) with wait := none } := by
  simp [State.poll, h]

/-- A poll changes the waiting register and `wait` alone (spec/40_engine_cycle.md R123). -/
theorem State.poll_keeps (s : State) (r : RegIdx) : KeepsAllBut [.V, .wait] s (s.poll r) := by
  intro p hp
  unfold State.poll
  split <;> cases p <;> simp_all [Part.Same, State.byteAt]

/-- The other registers keep their values. -/
theorem State.reg_poll_of_ne (s : State) {r x : RegIdx} (h : x ≠ r) : (s.poll r).reg x = s.reg x := by
  unfold State.poll
  split
  · exact (State.reg_setReg _ _ _ _).trans (if_neg h)
  · rfl

end Sys2Proof.Machine
end

