-- ==== Sys2Proof/Laws/PerInstr.lean ====
section
/-! SUPPORT. Statements about every instruction as syntax, one lemma per constructor: the word encode
gives lies in the instruction's row of the opcode map (spec/30_encoding.md R96). -/

namespace Sys2Proof.Laws

/-! ### Masks on the word formats (spec/30_encoding.md R91) -/

theorem nibble_and_ones (m : Nibble) : m &&& 0xF#4 = m := by revert m; decide

theorem byte_and_ones (b : Byte) : b &&& 0xFF#8 = b := by
  rw [show (0xFF#8 : Byte) = BitVec.allOnes 8 from rfl, BitVec.and_allOnes]

theorem wordNNN_and_major (m : Nibble) (nnn : Addr12) : wordNNN m nnn &&& 0xF000 = wordNNN m 0 := by
  rw [show (0xF000 : Word) = 0xF#4 ++ 0x000#12 from rfl, wordNNN, BitVec.and_append, nibble_and_ones,
    BitVec.and_zero]
  rfl

theorem wordXKK_and_major (m : Nibble) (x : RegIdx) (kk : Byte) :
    wordXKK m x kk &&& 0xF000 = wordXKK m 0 0 := by
  rw [show (0xF000 : Word) = (0xF#4 ++ 0x0#4 ++ 0x00#8 : BitVec (4 + 4 + 8)) from rfl, wordXKK,
    BitVec.and_append, BitVec.and_append, nibble_and_ones, BitVec.and_zero, BitVec.and_zero]
  rfl

theorem wordXKK_and_code (m : Nibble) (x : RegIdx) (kk : Byte) :
    wordXKK m x kk &&& 0xF0FF = wordXKK m 0 kk := by
  rw [show (0xF0FF : Word) = (0xF#4 ++ 0x0#4 ++ 0xFF#8 : BitVec (4 + 4 + 8)) from rfl, wordXKK,
    BitVec.and_append, BitVec.and_append, nibble_and_ones, BitVec.and_zero, byte_and_ones]
  rfl

theorem wordXYN_and_code (m : Nibble) (x y : RegIdx) (n : Nibble) :
    wordXYN m x y n &&& 0xF00F = wordXYN m 0 0 n := by
  rw [show (0xF00F : Word) = (0xF#4 ++ 0x0#4 ++ 0x0#4 ++ 0xF#4 : BitVec (4 + 4 + 4 + 4)) from rfl,
    wordXYN, BitVec.and_append, BitVec.and_append, BitVec.and_append, nibble_and_ones,
    nibble_and_ones, BitVec.and_zero, BitVec.and_zero]
  rfl

theorem wordXYN_and_major (m : Nibble) (x y : RegIdx) (n : Nibble) :
    wordXYN m x y n &&& 0xF000 = wordXYN m 0 0 0 := by
  rw [show (0xF000 : Word) = (0xF#4 ++ 0x0#4 ++ 0x0#4 ++ 0x0#4 : BitVec (4 + 4 + 4 + 4)) from rfl,
    wordXYN, BitVec.and_append, BitVec.and_append, BitVec.and_append, nibble_and_ones,
    BitVec.and_zero, BitVec.and_zero, BitVec.and_zero]
  rfl

/-! ### The family -/

/-- The mask and the pattern of an instruction's row in spec/opcode_table.json. -/
def tableRow : Instr → Word × Word
  | .cls => (0xFFFF, 0x00E0)
  | .ret => (0xFFFF, 0x00EE)
  | .sys _ => (0xF000, 0x0000)
  | .jp _ => (0xF000, 0x1000)
  | .call _ => (0xF000, 0x2000)
  | .seImm _ _ => (0xF000, 0x3000)
  | .sneImm _ _ => (0xF000, 0x4000)
  | .seReg _ _ => (0xF00F, 0x5000)
  | .ldImm _ _ => (0xF000, 0x6000)
  | .addImm _ _ => (0xF000, 0x7000)
  | .ldReg _ _ => (0xF00F, 0x8000)
  | .or _ _ => (0xF00F, 0x8001)
  | .and _ _ => (0xF00F, 0x8002)
  | .xor _ _ => (0xF00F, 0x8003)
  | .addReg _ _ => (0xF00F, 0x8004)
  | .sub _ _ => (0xF00F, 0x8005)
  | .shr _ _ => (0xF00F, 0x8006)
  | .subn _ _ => (0xF00F, 0x8007)
  | .shl _ _ => (0xF00F, 0x800E)
  | .sneReg _ _ => (0xF00F, 0x9000)
  | .ldI _ => (0xF000, 0xA000)
  | .jpV0 _ => (0xF000, 0xB000)
  | .rnd _ _ => (0xF000, 0xC000)
  | .drw _ _ _ => (0xF000, 0xD000)
  | .skp _ => (0xF0FF, 0xE09E)
  | .sknp _ => (0xF0FF, 0xE0A1)
  | .ldVxDt _ => (0xF0FF, 0xF007)
  | .ldVxK _ => (0xF0FF, 0xF00A)
  | .ldDtVx _ => (0xF0FF, 0xF015)
  | .ldStVx _ => (0xF0FF, 0xF018)
  | .addI _ => (0xF0FF, 0xF01E)
  | .ldF _ => (0xF0FF, 0xF029)
  | .ldB _ => (0xF0FF, 0xF033)
  | .ldMemVx _ => (0xF0FF, 0xF055)
  | .ldVxMem _ => (0xF0FF, 0xF065)
  | .unrecognized _ => (0x0000, 0x0000)

/-- The instruction's word has its row's fixed bits. -/
def EncodeMatchesRow.Statement (i : Instr) : Prop := encode i &&& (tableRow i).1 = (tableRow i).2

theorem EncodeMatchesRow.cls :
    EncodeMatchesRow.Statement (.cls) := rfl

theorem EncodeMatchesRow.ret :
    EncodeMatchesRow.Statement (.ret) := rfl

theorem EncodeMatchesRow.sys (nnn : Addr12) :
    EncodeMatchesRow.Statement (.sys nnn) := wordNNN_and_major _ _

theorem EncodeMatchesRow.jp (nnn : Addr12) :
    EncodeMatchesRow.Statement (.jp nnn) := wordNNN_and_major _ _

theorem EncodeMatchesRow.call (nnn : Addr12) :
    EncodeMatchesRow.Statement (.call nnn) := wordNNN_and_major _ _

theorem EncodeMatchesRow.seImm (x : RegIdx) (kk : Byte) :
    EncodeMatchesRow.Statement (.seImm x kk) := wordXKK_and_major _ _ _

theorem EncodeMatchesRow.sneImm (x : RegIdx) (kk : Byte) :
    EncodeMatchesRow.Statement (.sneImm x kk) := wordXKK_and_major _ _ _

theorem EncodeMatchesRow.seReg (x y : RegIdx) :
    EncodeMatchesRow.Statement (.seReg x y) := wordXYN_and_code _ _ _ _

theorem EncodeMatchesRow.ldImm (x : RegIdx) (kk : Byte) :
    EncodeMatchesRow.Statement (.ldImm x kk) := wordXKK_and_major _ _ _

theorem EncodeMatchesRow.addImm (x : RegIdx) (kk : Byte) :
    EncodeMatchesRow.Statement (.addImm x kk) := wordXKK_and_major _ _ _

theorem EncodeMatchesRow.ldReg (x y : RegIdx) :
    EncodeMatchesRow.Statement (.ldReg x y) := wordXYN_and_code _ _ _ _

theorem EncodeMatchesRow.or (x y : RegIdx) :
    EncodeMatchesRow.Statement (.or x y) := wordXYN_and_code _ _ _ _

theorem EncodeMatchesRow.and (x y : RegIdx) :
    EncodeMatchesRow.Statement (.and x y) := wordXYN_and_code _ _ _ _

theorem EncodeMatchesRow.xor (x y : RegIdx) :
    EncodeMatchesRow.Statement (.xor x y) := wordXYN_and_code _ _ _ _

theorem EncodeMatchesRow.addReg (x y : RegIdx) :
    EncodeMatchesRow.Statement (.addReg x y) := wordXYN_and_code _ _ _ _

theorem EncodeMatchesRow.sub (x y : RegIdx) :
    EncodeMatchesRow.Statement (.sub x y) := wordXYN_and_code _ _ _ _

theorem EncodeMatchesRow.shr (x y : RegIdx) :
    EncodeMatchesRow.Statement (.shr x y) := wordXYN_and_code _ _ _ _

theorem EncodeMatchesRow.subn (x y : RegIdx) :
    EncodeMatchesRow.Statement (.subn x y) := wordXYN_and_code _ _ _ _

theorem EncodeMatchesRow.shl (x y : RegIdx) :
    EncodeMatchesRow.Statement (.shl x y) := wordXYN_and_code _ _ _ _

theorem EncodeMatchesRow.sneReg (x y : RegIdx) :
    EncodeMatchesRow.Statement (.sneReg x y) := wordXYN_and_code _ _ _ _

theorem EncodeMatchesRow.ldI (nnn : Addr12) :
    EncodeMatchesRow.Statement (.ldI nnn) := wordNNN_and_major _ _

theorem EncodeMatchesRow.jpV0 (nnn : Addr12) :
    EncodeMatchesRow.Statement (.jpV0 nnn) := wordNNN_and_major _ _

theorem EncodeMatchesRow.rnd (x : RegIdx) (kk : Byte) :
    EncodeMatchesRow.Statement (.rnd x kk) := wordXKK_and_major _ _ _

theorem EncodeMatchesRow.drw (x y : RegIdx) (n : Fin 16) :
    EncodeMatchesRow.Statement (.drw x y n) := wordXYN_and_major _ _ _ _

theorem EncodeMatchesRow.skp (x : RegIdx) :
    EncodeMatchesRow.Statement (.skp x) := wordXKK_and_code _ _ _

theorem EncodeMatchesRow.sknp (x : RegIdx) :
    EncodeMatchesRow.Statement (.sknp x) := wordXKK_and_code _ _ _

theorem EncodeMatchesRow.ldVxDt (x : RegIdx) :
    EncodeMatchesRow.Statement (.ldVxDt x) := wordXKK_and_code _ _ _

theorem EncodeMatchesRow.ldVxK (x : RegIdx) :
    EncodeMatchesRow.Statement (.ldVxK x) := wordXKK_and_code _ _ _

theorem EncodeMatchesRow.ldDtVx (x : RegIdx) :
    EncodeMatchesRow.Statement (.ldDtVx x) := wordXKK_and_code _ _ _

theorem EncodeMatchesRow.ldStVx (x : RegIdx) :
    EncodeMatchesRow.Statement (.ldStVx x) := wordXKK_and_code _ _ _

theorem EncodeMatchesRow.addI (x : RegIdx) :
    EncodeMatchesRow.Statement (.addI x) := wordXKK_and_code _ _ _

theorem EncodeMatchesRow.ldF (x : RegIdx) :
    EncodeMatchesRow.Statement (.ldF x) := wordXKK_and_code _ _ _

theorem EncodeMatchesRow.ldB (x : RegIdx) :
    EncodeMatchesRow.Statement (.ldB x) := wordXKK_and_code _ _ _

theorem EncodeMatchesRow.ldMemVx (x : RegIdx) :
    EncodeMatchesRow.Statement (.ldMemVx x) := wordXKK_and_code _ _ _

theorem EncodeMatchesRow.ldVxMem (x : RegIdx) :
    EncodeMatchesRow.Statement (.ldVxMem x) := wordXKK_and_code _ _ _

theorem EncodeMatchesRow.unrecognized (w : Word) :
    EncodeMatchesRow.Statement (.unrecognized w) := BitVec.and_zero

end Sys2Proof.Laws
end

