-- ==== Sys2Proof/Laws/Decode.lean ====
section
/-! SUPPORT. What the decoder gives, said once: the fields of a built word, that no two rows but SYS with
CLS and RET take the same word (spec/30_encoding.md R94), and the row that decides a word. -/

namespace Sys2Proof.Laws

/-! ### The fields of a built word (spec/30_encoding.md R91, R92) -/

theorem regBits_toNat (x : RegIdx) : (regBits x).toNat = x.val := by
  simp only [regBits, BitVec.toNat_ofNat]
  omega

theorem wordXKK_toNat (m : Nibble) (x : RegIdx) (kk : Byte) :
    (wordXKK m x kk).toNat = m.toNat * 4096 + x.val * 256 + kk.toNat := by
  have := m.isLt; have := x.isLt; have := kk.isLt
  simp only [wordXKK, BitVec.toNat_append, regBits_toNat]
  rw [← Nat.shiftLeft_add_eq_or_of_lt (by omega), ← Nat.shiftLeft_add_eq_or_of_lt (by omega),
    Nat.shiftLeft_eq, Nat.shiftLeft_eq]
  omega

theorem wordXYN_toNat (m : Nibble) (x y : RegIdx) (n : Nibble) :
    (wordXYN m x y n).toNat = m.toNat * 4096 + x.val * 256 + y.val * 16 + n.toNat := by
  have := m.isLt; have := x.isLt; have := y.isLt; have := n.isLt
  simp only [wordXYN, BitVec.toNat_append, regBits_toNat]
  rw [← Nat.shiftLeft_add_eq_or_of_lt (by omega), ← Nat.shiftLeft_add_eq_or_of_lt (by omega),
    ← Nat.shiftLeft_add_eq_or_of_lt (by omega), Nat.shiftLeft_eq, Nat.shiftLeft_eq, Nat.shiftLeft_eq]
  omega

theorem wordNNN_toNat (m : Nibble) (nnn : Addr12) :
    (wordNNN m nnn).toNat = m.toNat * 4096 + nnn.toNat := by
  have := m.isLt; have := nnn.isLt
  simp only [wordNNN, BitVec.toNat_append]
  rw [← Nat.shiftLeft_add_eq_or_of_lt (by omega), Nat.shiftLeft_eq]

theorem fieldX_val (w : Word) : (fieldX w).val = w.toNat / 256 % 16 := by
  simp [fieldX, BitVec.extractLsb'_toNat, Nat.shiftRight_eq_div_pow]

theorem fieldY_val (w : Word) : (fieldY w).val = w.toNat / 16 % 16 := by
  simp [fieldY, BitVec.extractLsb'_toNat, Nat.shiftRight_eq_div_pow]

theorem fieldN_val (w : Word) : (fieldN w).val = w.toNat % 16 := by
  simp [fieldN, BitVec.extractLsb'_toNat]

theorem fieldKK_toNat (w : Word) : (fieldKK w).toNat = w.toNat % 256 := by
  simp [fieldKK, BitVec.extractLsb'_toNat]

theorem fieldNNN_toNat (w : Word) : (fieldNNN w).toNat = w.toNat % 4096 := by
  simp [fieldNNN, BitVec.extractLsb'_toNat]

@[simp] theorem fieldX_wordXKK (m : Nibble) (x : RegIdx) (kk : Byte) :
    fieldX (wordXKK m x kk) = x := by
  have := m.isLt; have := x.isLt; have := kk.isLt
  apply Fin.ext; rw [fieldX_val, wordXKK_toNat]; omega

@[simp] theorem fieldKK_wordXKK (m : Nibble) (x : RegIdx) (kk : Byte) :
    fieldKK (wordXKK m x kk) = kk := by
  have := m.isLt; have := x.isLt; have := kk.isLt
  apply BitVec.eq_of_toNat_eq; rw [fieldKK_toNat, wordXKK_toNat]; omega

@[simp] theorem fieldX_wordXYN (m : Nibble) (x y : RegIdx) (n : Nibble) :
    fieldX (wordXYN m x y n) = x := by
  have := m.isLt; have := x.isLt; have := y.isLt; have := n.isLt
  apply Fin.ext; rw [fieldX_val, wordXYN_toNat]; omega

@[simp] theorem fieldY_wordXYN (m : Nibble) (x y : RegIdx) (n : Nibble) :
    fieldY (wordXYN m x y n) = y := by
  have := m.isLt; have := x.isLt; have := y.isLt; have := n.isLt
  apply Fin.ext; rw [fieldY_val, wordXYN_toNat]; omega

@[simp] theorem fieldN_wordXYN (m : Nibble) (x y : RegIdx) (n : Nibble) :
    fieldN (wordXYN m x y n) = n.toFin := by
  have := m.isLt; have := x.isLt; have := y.isLt; have := n.isLt
  apply Fin.ext; rw [fieldN_val, wordXYN_toNat]; show _ = n.toNat; omega

@[simp] theorem fieldNNN_wordNNN (m : Nibble) (nnn : Addr12) :
    fieldNNN (wordNNN m nnn) = nnn := by
  have := m.isLt; have := nnn.isLt
  apply BitVec.eq_of_toNat_eq; rw [fieldNNN_toNat, wordNNN_toNat]; omega

/-! ### The masks of the opcode map as arithmetic -/

/-- Every word has four nibbles. -/
theorem exists_wordXYN (w : Word) : ∃ m x y n, w = wordXYN m x y n := by
  have hw := w.isLt
  refine ⟨BitVec.ofNat 4 (w.toNat / 4096), ⟨w.toNat / 256 % 16, by omega⟩,
    ⟨w.toNat / 16 % 16, by omega⟩, BitVec.ofNat 4 w.toNat, ?_⟩
  apply BitVec.eq_of_toNat_eq
  rw [wordXYN_toNat, BitVec.toNat_ofNat, BitVec.toNat_ofNat]
  dsimp only
  omega

theorem and_F000_toNat (w : Word) : (w &&& 0xF000).toNat = w.toNat / 4096 * 4096 := by
  obtain ⟨m, x, y, n, rfl⟩ := exists_wordXYN w
  have := m.isLt; have := x.isLt; have := y.isLt; have := n.isLt
  rw [wordXYN_and_major, wordXYN_toNat, wordXYN_toNat]
  simp
  omega

theorem and_F00F_toNat (w : Word) :
    (w &&& 0xF00F).toNat = w.toNat / 4096 * 4096 + w.toNat % 16 := by
  obtain ⟨m, x, y, n, rfl⟩ := exists_wordXYN w
  have := m.isLt; have := x.isLt; have := y.isLt; have := n.isLt
  rw [wordXYN_and_code, wordXYN_toNat, wordXYN_toNat]
  simp
  omega

/-- Every word has a major opcode, a register field and a low byte. -/
theorem exists_wordXKK (w : Word) : ∃ m x kk, w = wordXKK m x kk := by
  have hw := w.isLt
  refine ⟨BitVec.ofNat 4 (w.toNat / 4096), ⟨w.toNat / 256 % 16, by omega⟩, BitVec.ofNat 8 w.toNat, ?_⟩
  apply BitVec.eq_of_toNat_eq
  rw [wordXKK_toNat, BitVec.toNat_ofNat, BitVec.toNat_ofNat]
  dsimp only
  omega

theorem and_F0FF_toNat (w : Word) :
    (w &&& 0xF0FF).toNat = w.toNat / 4096 * 4096 + w.toNat % 256 := by
  obtain ⟨m, x, kk, rfl⟩ := exists_wordXKK w
  have := m.isLt; have := x.isLt; have := kk.isLt
  rw [wordXKK_and_code, wordXKK_toNat, wordXKK_toNat]
  simp
  omega

theorem and_F000_eq {w : Word} {p : Word} : w &&& 0xF000 = p ↔ w.toNat / 4096 * 4096 = p.toNat := by
  rw [← and_F000_toNat, BitVec.toNat_inj]

theorem and_F00F_eq {w : Word} {p : Word} :
    w &&& 0xF00F = p ↔ w.toNat / 4096 * 4096 + w.toNat % 16 = p.toNat := by
  rw [← and_F00F_toNat, BitVec.toNat_inj]

theorem and_F0FF_eq {w : Word} {p : Word} :
    w &&& 0xF0FF = p ↔ w.toNat / 4096 * 4096 + w.toNat % 256 = p.toNat := by
  rw [← and_F0FF_toNat, BitVec.toNat_inj]

/-! ### The row that decides a word -/

/-- Two rows with a word in common agree on the bits both look at. -/
theorem patterns_agree {w m p n q : Word} (h : w &&& m = p) (k : w &&& n = q) : p &&& n = q &&& m := by
  rw [← h, ← k, BitVec.and_assoc, BitVec.and_assoc, BitVec.and_comm m n]

/-- The rows after CLS and RET. -/
def laterRows : List OpcodeRow := opcodeRows.drop 2

/-- No two rows of `laterRows` take the same word. -/
theorem laterRows_disjoint :
    laterRows.Pairwise fun r q => r.pattern &&& q.mask ≠ q.pattern &&& r.mask := by decide

theorem find?_eq_of_pairwise {α : Type} {p : α → Bool} {a : α} {l : List α} (ha : a ∈ l) (hp : p a = true)
    (hl : l.Pairwise fun r q => ¬ (p r = true ∧ p q = true)) : l.find? p = some a := by
  induction l with
  | nil => simp at ha
  | cons b l ih =>
    obtain ⟨hb, hl⟩ := List.pairwise_cons.mp hl
    rcases List.mem_cons.mp ha with rfl | ha
    · simp [hp]
    · have : p b = false := by
        by_contra h
        exact hb a ha ⟨by simpa using h, hp⟩
      simp [this, ih ha hl]

/-- A word other than those of CLS and RET is decoded by the row it fits. -/
theorem decode_of_row {w : Word} {row : OpcodeRow} (hmem : row ∈ laterRows) (hcls : w ≠ 0x00E0)
    (hret : w ≠ 0x00EE) (hrow : w &&& row.mask = row.pattern) : decode w = row.build w := by
  have h : laterRows.find? (fun r => w &&& r.mask == r.pattern) = some row := by
    refine find?_eq_of_pairwise hmem (by simpa using hrow) (laterRows_disjoint.imp fun hd hb => ?_)
    simp only [beq_iff_eq] at hb
    exact hd (patterns_agree hb.1 hb.2)
  have hw : w &&& 0xFFFF = w := by rw [show (0xFFFF : Word) = BitVec.allOnes 16 from rfl, BitVec.and_allOnes]
  have e : opcodeRows.find? (fun r => w &&& r.mask == r.pattern) = some row := by
    rw [show opcodeRows = ⟨0xFFFF, 0x00E0, fun _ => .cls⟩ :: ⟨0xFFFF, 0x00EE, fun _ => .ret⟩ :: laterRows from rfl,
      List.find?_cons_of_neg (by simpa only [hw, beq_iff_eq] using hcls),
      List.find?_cons_of_neg (by simpa only [hw, beq_iff_eq] using hret), h]
  unfold decode
  rw [e]

/-- A word that fits a row of another major opcode than 0 is decoded by it. -/
theorem decode_of_majorRow {w : Word} {row : OpcodeRow} (hmem : row ∈ laterRows)
    (hmajor : row.pattern &&& 0xF000 ≠ 0) (hrow : w &&& row.mask = row.pattern) :
    decode w = row.build w := by
  have key : ∀ v : Word, v &&& 0xF000 = 0 → w ≠ v := by
    rintro v hv rfl
    apply hmajor
    rw [← hrow, BitVec.and_assoc, BitVec.and_comm row.mask, ← BitVec.and_assoc, hv]
    exact BitVec.zero_and
  exact decode_of_row hmem (key _ (by decide)) (key _ (by decide)) hrow

/-- A word that fits no row is UNRECOGNIZED. -/
theorem decode_of_noRow {w : Word} (h : ∀ row ∈ opcodeRows, w &&& row.mask ≠ row.pattern) :
    decode w = .unrecognized w := by
  unfold decode
  rw [List.find?_eq_none.mpr fun row hrow => by simpa using h row hrow]

/-- Every word is that of CLS or of RET, or fits a later row, or is UNRECOGNIZED. -/
theorem decode_cases (w : Word) :
    (w = 0x00E0 ∧ decode w = .cls) ∨ (w = 0x00EE ∧ decode w = .ret) ∨
      (∃ row ∈ laterRows, w &&& row.mask = row.pattern ∧ decode w = row.build w) ∨
      decode w = .unrecognized w := by
  by_cases h0 : w = 0x00E0
  · subst h0; exact .inl ⟨rfl, by decide⟩
  by_cases h1 : w = 0x00EE
  · subst h1; exact .inr (.inl ⟨rfl, by decide⟩)
  by_cases h : ∃ row ∈ laterRows, w &&& row.mask = row.pattern
  · obtain ⟨row, hm, hr⟩ := h
    exact .inr (.inr (.inl ⟨row, hm, hr, decode_of_row hm h0 h1 hr⟩))
  · refine .inr (.inr (.inr (decode_of_noRow fun row hrow hw => ?_)))
    have ha : w &&& 0xFFFF = w := by
      rw [show (0xFFFF : Word) = BitVec.allOnes 16 from rfl, BitVec.and_allOnes]
    rw [show opcodeRows = ⟨0xFFFF, 0x00E0, fun _ => .cls⟩ :: ⟨0xFFFF, 0x00EE, fun _ => .ret⟩ :: laterRows from rfl] at hrow
    rcases List.mem_cons.mp hrow with rfl | hrow
    · exact h0 (ha.symm.trans hw)
    · rcases List.mem_cons.mp hrow with rfl | hrow
      · exact h1 (ha.symm.trans hw)
      · exact h ⟨row, hrow, hw⟩

end Sys2Proof.Laws
end

