-- ==== Sys2Proof/Laws/Display.lean ====
section
/-! SUPPORT. What the drawing operations do to the grid: each toggles exactly the pixels its sprite part
is lit on and reports exactly the lit pixels it unsets. -/

namespace Sys2Proof.Machine

/-- From `c` to `c'` exactly the pixels of `lit` are toggled, and the collision mark is set exactly if
it was, or a pixel of `lit` was set. -/
def Toggles (lit : Fin 32 → Fin 64 → Bool) (c c' : Canvas) : Prop :=
  (∀ (r : Fin 32) (k : Fin 64), c'.fb[r][k] = (c.fb[r][k] != lit r k)) ∧
    (c'.collision = true ↔ c.collision = true ∨ ∃ r k, c.fb[r][k] = true ∧ lit r k = true)

theorem Toggles.refl (c : Canvas) : Toggles (fun _ _ => false) c c := by simp [Toggles]

/-- Two toggles of disjoint pixels make one toggle of their union. -/
theorem Toggles.trans {l₁ l₂ l : Fin 32 → Fin 64 → Bool} {c₁ c₂ c₃ : Canvas}
    (h₁ : Toggles l₁ c₁ c₂) (h₂ : Toggles l₂ c₂ c₃)
    (hdisj : ∀ r k, l₁ r k = true → l₂ r k = false) (hl : ∀ r k, l r k = (l₁ r k || l₂ r k)) :
    Toggles l c₁ c₃ := by
  refine ⟨fun r k => ?_, ?_⟩
  · rw [h₂.1, h₁.1, hl]
    have := hdisj r k
    revert this
    cases l₁ r k <;> cases l₂ r k <;> simp
  · rw [h₂.2, h₁.2]
    constructor
    · rintro ((h | ⟨r, k, h, hlit⟩) | ⟨r, k, h, hlit⟩)
      · exact .inl h
      · exact .inr ⟨r, k, h, by simp [hl, hlit]⟩
      · refine .inr ⟨r, k, ?_, by simp [hl, hlit]⟩
        rw [h₁.1] at h
        have := hdisj r k
        cases hl1 : l₁ r k <;> simp_all
    · rintro (h | ⟨r, k, h, hlit⟩)
      · exact .inl (.inl h)
      · rw [hl] at hlit
        by_cases h1 : l₁ r k = true
        · exact .inl (.inr ⟨r, k, h, h1⟩)
        · refine .inr ⟨r, k, ?_, by simpa [h1] using hlit⟩
          rw [h₁.1, h]; simpa using h1

/-- The pixel a sprite bit lands on, if it is inside the grid. -/
theorem drawPixel_toggles (col row : Nat) (bit : Bool) (c : Canvas) :
    Toggles (fun r k => bit && decide (r.val = row ∧ k.val = col)) c (drawPixel col row bit c) := by
  unfold drawPixel
  split
  · next h =>
    obtain ⟨hc, hr⟩ := h
    simp only [Config.dispW, Config.dispH] at hc hr
    cases bit with
    | false => simp [Toggles]
    | true =>
      refine ⟨fun r k => ?_, ?_⟩
      · simp only [Fin.getElem_fin, if_true, Bool.true_and]
        by_cases hrr : r.val = row
        · by_cases hkk : k.val = col
          · simp [hrr, hkk]
          · simp [hrr, hkk, Ne.symm hkk]
        · simp [hrr, Ne.symm hrr]
      · simp only [if_true, Bool.or_eq_true, Bool.true_and, decide_eq_true_eq]
        constructor
        · rintro (h | h)
          · exact .inl h
          · exact .inr ⟨⟨row, hr⟩, ⟨col, hc⟩, h, rfl, rfl⟩
        · rintro (h | ⟨r, k, h, rfl, rfl⟩)
          · exact .inl h
          · exact .inr h
  · next h =>
    simp only [Config.dispW, Config.dispH, not_and] at h
    have : ∀ (r : Fin 32) (k : Fin 64), ¬ (r.val = row ∧ k.val = col) := by omega
    simp [Toggles, this]

theorem drawRow_prefix_toggles (x0 row : Nat) (b : Byte) (c : Canvas) (n : Nat) :
    Toggles (fun r k => decide (r.val = row ∧ x0 ≤ k.val ∧ k.val < x0 + n) &&
        b.getLsbD (7 - (k.val - x0))) c
      ((List.range n).foldl (fun c k => drawPixel (x0 + k) row (b.getLsbD (7 - k)) c) c) := by
  induction n with
  | zero =>
    refine cast ?_ (Toggles.refl c)
    congr 1
    funext r k
    simp
  | succ n ih =>
    rw [List.range_succ, List.foldl_append]
    refine ih.trans (drawPixel_toggles (x0 + n) row _ _) (fun r k h => ?_) (fun r k => ?_)
    · simp only [Bool.and_eq_true, decide_eq_true_eq] at h
      simp only [Bool.and_eq_false_imp, decide_eq_false_iff_not]
      omega
    · by_cases hk : k.val = x0 + n
      · have : k.val - x0 = n := by omega
        by_cases hr : r.val = row <;> simp [hk, hr]
      · have e : (x0 ≤ k.val ∧ k.val < x0 + (n + 1)) ↔ (x0 ≤ k.val ∧ k.val < x0 + n) := by omega
        simp [e, hk]

/-- One sprite row toggles the pixels its 1 bits land on. -/
theorem drawRow_toggles (x0 row : Nat) (b : Byte) (c : Canvas) :
    Toggles (fun r k => decide (r.val = row ∧ x0 ≤ k.val ∧ k.val < x0 + 8) &&
        b.getLsbD (7 - (k.val - x0))) c (drawRow x0 row b c) :=
  drawRow_prefix_toggles x0 row b c 8

/-- A sprite toggles the pixels its 1 bits land on. -/
theorem drawRows_toggles (x0 row : Nat) (bs : List Byte) (c : Canvas) :
    Toggles (fun r k => decide (row ≤ r.val ∧ r.val < row + bs.length ∧ x0 ≤ k.val ∧
        k.val < x0 + 8) && (bs.getD (r.val - row) 0).getLsbD (7 - (k.val - x0))) c
      (drawRows x0 row bs c) := by
  induction bs generalizing row c with
  | nil =>
    refine cast ?_ (Toggles.refl c)
    congr 1
    funext r k
    simp
  | cons b bs ih =>
    refine (drawRow_toggles x0 row b c).trans (ih (row + 1) _) (fun r k h => ?_) (fun r k => ?_)
    · simp only [Bool.and_eq_true, decide_eq_true_eq] at h
      simp only [Bool.and_eq_false_imp, decide_eq_true_eq]
      omega
    · rcases Nat.lt_trichotomy r.val row with h | h | h
      · have h1 : ¬ row ≤ r.val := by omega
        have h2 : ¬ row + 1 ≤ r.val := by omega
        have h3 : r.val ≠ row := by omega
        simp [h1, h2, h3]
      · simp [h]
      · have h1 : row ≤ r.val := by omega
        have h2 : row + 1 ≤ r.val := by omega
        have h3 : r.val ≠ row := by omega
        have h4 : r.val - row = (r.val - (row + 1)) + 1 := by omega
        have h5 : r.val < row + (bs.length + 1) ↔ r.val < row + 1 + bs.length := by omega
        simp [h1, h2, h3, h4, h5]

end Sys2Proof.Machine
end

