-- ==== Sys2Proof/Laws/Memory.lean ====
section
/-! SUPPORT. What the memory operations do: a read after a write, runs of writes, and that every write
keeps the canonical form. -/

namespace Sys2Proof.Machine

theorem lookupCell_eq_none {a : Nat} : ∀ {cells : List Host.Cell}, (∀ c ∈ cells, c.1 ≠ a) →
    lookupCell cells a = none
  | [], _ => rfl
  | (k, b) :: rest, h => by
    simp only [lookupCell, if_neg (h (k, b) (by simp))]
    exact lookupCell_eq_none fun c hc => h c (by simp [hc])

theorem lookupCell_insertCell (a x : Nat) (b : Byte) : ∀ cells : List Host.Cell,
    lookupCell (insertCell a b cells) x = if x = a then some b else lookupCell cells x
  | [] => by simp [insertCell, lookupCell, eq_comm]
  | (k, c) :: rest => by
    have ih := lookupCell_insertCell a x b rest
    simp only [insertCell]
    split
    · simp only [lookupCell]; grind
    · split
      · simp only [lookupCell]; grind
      · simp only [lookupCell, ih]; grind

theorem lookupCell_eraseCell (a x : Nat) : ∀ cells : List Host.Cell,
    lookupCell (eraseCell a cells) x = if x = a then none else lookupCell cells x
  | [] => by simp [eraseCell, lookupCell]
  | (k, c) :: rest => by
    have ih := lookupCell_eraseCell a x rest
    simp only [eraseCell] at ih ⊢
    by_cases hk : k = a
    · simp only [List.filter_cons, hk, bne_self_eq_false, Bool.false_eq_true, if_false, ih, lookupCell]
      grind
    · simp only [List.filter_cons, bne_iff_ne, ne_eq, hk, not_false_eq_true, if_true, lookupCell, ih]
      grind

@[simp] theorem Memory.font_write (m : Memory) (a : Nat) (b : Byte) : (m.write a b).font = m.font := rfl

@[simp] theorem Memory.unlisted_write (m : Memory) (a x : Nat) (b : Byte) :
    (m.write a b).unlisted x = m.unlisted x := rfl

/-- The read of any byte after a write. -/
theorem Memory.read_write (m : Memory) (a x : Nat) (b : Byte) :
    (m.write a b).read x = if x = a then b else m.read x := by
  simp only [Memory.read, Memory.unlisted_write]
  by_cases hb : b = m.unlisted a
  · have hc : (m.write a b).cells = eraseCell a m.cells := if_pos hb
    rw [hc, lookupCell_eraseCell]
    by_cases hx : x = a <;> simp [hx, hb]
  · have hc : (m.write a b).cells = insertCell a b m.cells := if_neg hb
    rw [hc, lookupCell_insertCell]
    by_cases hx : x = a <;> simp [hx]

@[simp] theorem Memory.font_writeRun (m : Memory) (a : Nat) (bs : List Byte) :
    (m.writeRun a bs).font = m.font := by
  induction bs generalizing m a with
  | nil => rfl
  | cons b bs ih => simp [Memory.writeRun, ih]

/-- The read of any byte after a run of writes. -/
theorem Memory.read_writeRun (m : Memory) (a x : Nat) (bs : List Byte) :
    (m.writeRun a bs).read x = if a ≤ x then (bs[x - a]?).getD (m.read x) else m.read x := by
  induction bs generalizing m a with
  | nil => simp [Memory.writeRun]
  | cons b bs ih =>
    simp only [Memory.writeRun, ih, Memory.read_write]
    rcases Nat.lt_trichotomy x a with h | h | h
    · rw [if_neg (by omega), if_neg (by omega), if_neg (by omega)]
    · subst h; simp
    · obtain ⟨d, rfl⟩ : ∃ d, x = a + 1 + d := ⟨x - (a + 1), by omega⟩
      rw [if_pos (by omega), if_neg (by omega), if_pos (by omega)]
      have : a + 1 + d - a = d + 1 := by omega
      simp [this]

theorem insertCell_mem {a : Nat} {b : Byte} {cells : List Host.Cell} {c : Host.Cell}
    (h : c ∈ insertCell a b cells) : c = (a, b) ∨ c ∈ cells := by
  induction cells with
  | nil => simpa [insertCell] using h
  | cons d rest ih =>
    obtain ⟨k, e⟩ := d
    simp only [insertCell] at h
    split at h
    · simpa using h
    · split at h
      · rcases List.mem_cons.mp h with h | h <;> simp [h]
      · rcases List.mem_cons.mp h with h | h
        · simp [h]
        · rcases ih h with h | h <;> simp [h]

theorem insertCell_sorted {a : Nat} {b : Byte} {cells : List Host.Cell}
    (h : cells.Pairwise (fun c d => c.1 < d.1)) :
    (insertCell a b cells).Pairwise (fun c d => c.1 < d.1) := by
  induction cells with
  | nil => simp [insertCell]
  | cons d rest ih =>
    obtain ⟨k, e⟩ := d
    obtain ⟨hk, hrest⟩ := List.pairwise_cons.mp h
    simp only [insertCell]
    split
    · next hlt =>
      refine List.pairwise_cons.mpr ⟨fun c hc => ?_, h⟩
      rcases List.mem_cons.mp hc with rfl | hc
      · exact hlt
      · exact hlt.trans (hk c hc)
    · split
      · next heq => subst heq; exact List.pairwise_cons.mpr ⟨hk, hrest⟩
      · refine List.pairwise_cons.mpr ⟨fun c hc => ?_, ih hrest⟩
        rcases insertCell_mem hc with rfl | hc
        · simp only; omega
        · exact hk c hc

/-- A write inside the 4096 bytes keeps the canonical form. -/
theorem Memory.wf_write {m : Memory} (h : m.wf) {a : Nat} (ha : a < Config.memSize) (b : Byte) :
    (m.write a b).wf := by
  obtain ⟨hs, hc⟩ := h
  unfold Memory.write
  split
  · exact ⟨hs.filter _, fun c hcm => hc c (List.mem_of_mem_filter hcm)⟩
  · next hb =>
    refine ⟨insertCell_sorted hs, fun c hcm => ?_⟩
    rcases insertCell_mem hcm with rfl | hcm
    · exact ⟨ha, hb⟩
    · exact hc c hcm

/-- A run of writes inside the 4096 bytes keeps the canonical form. -/
theorem Memory.wf_writeRun {m : Memory} (h : m.wf) {a : Nat} {bs : List Byte}
    (ha : a + bs.length ≤ Config.memSize) : (m.writeRun a bs).wf := by
  induction bs generalizing m a with
  | nil => exact h
  | cons b bs ih =>
    simp only [List.length_cons] at ha
    exact ih (Memory.wf_write h (by omega) b) (by omega)

/-- The reset memory has the canonical form. -/
theorem Memory.wf_reset (font : Vector Byte Config.fontSize) : (Memory.mk font []).wf := by
  simp [Memory.wf]

theorem State.byteAt_storeRun (s : State) (a x : Nat) (bs : List Byte) :
    (s.storeRun a bs).byteAt x =
      if a ≤ x then (bs[x - a]?).getD (s.byteAt x) else s.byteAt x :=
  Memory.read_writeRun s.mem a x bs

/-- A run of stores leaves every byte outside it unchanged. -/
theorem State.storeRun_keepsBytesOutside (s : State) (a : Nat) (bs : List Byte) :
    KeepsBytesOutside a bs.length s (s.storeRun a bs) := by
  intro x hx
  rw [State.byteAt_storeRun]
  split
  · rw [List.getElem?_eq_none (by omega), Option.getD_none]
  · rfl

/-- The same memory has the same bytes, inside and outside any run. -/
theorem keepsBytesOutside_of_mem_eq {s t : State} (h : t.mem = s.mem) (lo n : Nat) :
    KeepsBytesOutside lo n s t := fun a _ => State.byteAt_congr h a

end Sys2Proof.Machine
end

