-- ==== Sys2Proof/Laws/Operands.lean ====
section
/-! SUPPORT. What the operand forms give: the all-or-nothing address check, hex digits, decimal digits,
the registers a dump stores, and the least pressed key. -/

namespace Sys2Proof.Machine

/-- No data fault: nothing is touched, or the highest address is at most 4095. -/
theorem State.dataFault?_eq_none {s : State} {n : Nat} :
    s.dataFault? n = none ↔ n = 0 ∨ s.I.toNat + n - 1 ≤ 4095 := by
  unfold State.dataFault? State.dataAddr
  split
  · next h => simp only [Config.memSize] at h; simp; omega
  · next h => simp only [Config.memSize] at h; simp; omega

/-- A data fault carries the lowest out-of-range address (spec/20_memory.md R69). -/
theorem State.dataFault?_eq_some {s : State} {n : Nat} (h0 : 0 < n) (h : 4095 < s.I.toNat + n - 1) :
    s.dataFault? n = some (BitVec.ofNat 16 (max s.I.toNat 4096)) := by
  simp only [State.dataFault?, State.dataAddr, Config.memSize]
  exact if_pos ⟨h0, by omega⟩

/-- Whatever a data fault carries, it is that address. -/
theorem State.dataFault?_addr {s : State} {n : Nat} {a : Word} (h : s.dataFault? n = some a) :
    a = BitVec.ofNat 16 (max s.I.toNat 4096) := by
  simp only [State.dataFault?, Config.memSize] at h
  split at h <;> simp_all

/-- The data fault depends on the index register alone. -/
theorem State.dataFault?_congr {s t : State} (h : t.I = s.I) (n : Nat) :
    t.dataFault? n = s.dataFault? n := by
  unfold State.dataFault? State.dataAddr; rw [h]

theorem digit?_eq_some {b : Byte} {k : RegIdx} : digit? b = some k ↔ b.toNat = k.val := by
  simp only [digit?]
  split <;> simp [Fin.ext_iff]
  omega

theorem digit?_eq_none {b : Byte} : digit? b = none ↔ 15 < b.toNat := by
  simp only [digit?]
  split
  · simp; omega
  · simp; omega

/-- The three decimal digits of a byte make it up. -/
theorem decimalDigits_length (a : Byte) : (decimalDigits a).length = 3 := rfl

theorem State.regsUpTo_length (s : State) (x : RegIdx) : (s.regsUpTo x).length = x.val + 1 := by
  simp [State.regsUpTo]

theorem State.regsUpTo_getElem? (s : State) (x : RegIdx) (j : Nat) :
    (s.regsUpTo x)[j]? = if h : j ≤ x.val then some (s.reg ⟨j, by omega⟩) else none := by
  simp only [State.regsUpTo, State.reg, List.getElem?_take]
  split
  · next h =>
    have hj : j ≤ x.val := by omega
    rw [dif_pos hj, List.getElem?_eq_getElem (by simp; omega)]
    simp
  · next h => rw [dif_neg (by omega)]

theorem State.spriteBytes_length (s : State) (n : Nat) : (s.spriteBytes n).length = n := by
  simp [State.spriteBytes]

theorem State.spriteBytes_getElem (s : State) (n r : Nat) (h : r < (s.spriteBytes n).length) :
    (s.spriteBytes n)[r] = s.byteAt (s.I.toNat + r) := by
  simp [State.spriteBytes, State.dataAddr]

theorem lowestKey_eq_none {key : Vector Bool Config.nKeys} :
    lowestKey key = none ↔ ∀ k : RegIdx, key[k] = false := by
  simp [lowestKey]

theorem lowestKey_eq_some {key : Vector Bool Config.nKeys} {k : RegIdx} (hk : key[k] = true)
    (hlow : ∀ j : RegIdx, j < k → key[j] = false) : lowestKey key = some k := by
  rw [lowestKey, List.find?_eq_some_iff_getElem]
  refine ⟨hk, k.val, by simp, by simp, fun j hj => ?_⟩
  have := hlow ⟨j, by omega⟩ (by simpa [Fin.lt_def] using hj)
  simpa using this

end Sys2Proof.Machine
end

