-- ==== Sys2Proof/Tests/Slice0.lean ====
section
/-! SUPPORT. The model's own tests. Expected values come from spec/95_test_vectors.md (the vector's id is
in the docstring, or in a comment for a group) or from hand calculation with the rule named. The last part
shows, for every obligation with hypotheses, states and operands that meet them. -/

namespace Sys2Proof.Tests

open Sys2Proof.Machine

/-! ### Helpers -/

/-- The outcome is a next state and `p` holds of it. -/
def nextHas (r : Result) (p : State → Bool) : Bool :=
  match r with
  | .next t => p t
  | .fault _ => false
  | .refused _ => false

theorem next_of_nextHas {r : Result} {p : State → Bool} (h : nextHas r p = true) :
    ∃ t, r = .next t ∧ p t = true := by
  cases r <;> simp_all [nextHas]

/-- One cycle from `s` with the word `w` placed at PC. -/
def after (w : Nat) (s : State) (p : State → Bool) : Bool := nextHas (step (s.withFetchWord 16 w)) p

/-- The reset state with the listed registers set. -/
def regs (vs : List (RegIdx × Byte)) : State := vs.foldl (fun s v => s.setReg v.1 v.2) State.reset

/-- `s` with bytes stored from address `a` on. -/
def withBytes (a : Nat) (bs : List Byte) (s : State) : State := s.storeRun a bs

/-- `s` with one pixel lit, column first as in the vectors. -/
def withPixel (col : Fin 64) (row : Fin 32) (s : State) : State :=
  { s with fb := s.fb.set row (s.fb[row].set col true) }

/-- `n` bytes of memory from `a` on. -/
def bytesFrom (s : State) (a n : Nat) : List Byte := (List.range n).map fun j => s.byteAt (a + j)

/-- The lit pixels of a row, as column numbers. -/
def litCols (s : State) (row : Fin 32) : List Nat :=
  ((List.finRange 64).filter fun c => s.pixel row c).map Fin.val

/-- `State.AtInstr` as a check. -/
def atInstr? (s : State) (i : Instr) : Bool :=
  s.halt == none && s.wait == none && decide (s.PC.toNat < 4094) && decode s.wordAtPC == i

theorem atInstr_of {s : State} {i : Instr} (h : atInstr? s i = true) : s.AtInstr i := by
  simp only [atInstr?, Bool.and_eq_true, beq_iff_eq, decide_eq_true_eq] at h
  exact ⟨⟨h.1.1.1, h.1.1.2⟩, h.1.2, h.2⟩

/-! ### Well-formedness: each check refuses an ill-formed term -/

theorem test_wf_sys_is_not_cls : (Instr.sys 0x0E0).wf = false := by decide
theorem test_wf_sys_is_not_ret : (Instr.sys 0x0EE).wf = false := by decide
theorem test_wf_sys : (Instr.sys 0x0E1).wf = true := by decide

/-- A word of another class is no UNRECOGNIZED word, major opcode by major opcode. -/
theorem test_wf_unrecognized_refuses :
    ([0x0123, 0x1234, 0x5120, 0x8120, 0x812E, 0x9120, 0xD125, 0xE19E, 0xE1A1, 0xF165] : List Word).all
      (fun w => !(Instr.unrecognized w).wf) = true := by decide

/-- Section 2.1 and S11. -/
theorem test_wf_unrecognized_accepts :
    ([0x5121, 0x8AB8, 0x8ABD, 0x8ABF, 0x912F, 0xE19F, 0xF100, 0xF1FF] : List Word).all
      (fun w => (Instr.unrecognized w).wf && decode w == .unrecognized w) = true := by decide

/-! ### Decoding: every row of the opcode map, words written out from spec/30_encoding.md R96 -/

theorem test_decode_flow :
    decodeTableWord 16 0b0000_0000_1110_0000 = some .cls ∧
    decodeTableWord 16 0b0000_0000_1110_1110 = some .ret ∧
    decodeTableWord 16 0b0000_0001_0010_0011 = some (.sys 0x123) ∧
    decodeTableWord 16 0b0001_1010_1011_1100 = some (.jp 0xABC) ∧
    decodeTableWord 16 0b0010_1111_1111_1110 = some (.call 0xFFE) ∧
    decodeTableWord 16 0b1011_0001_0010_0011 = some (.jpV0 0x123) ∧
    decodeTableWord 16 0b0101_0001_0010_0001 = some (.unrecognized 0x5121) := by decide

theorem test_decode_skip :
    decodeTableWord 16 0b0011_1010_0111_1111 = some (.seImm 10 0x7F) ∧
    decodeTableWord 16 0b0100_1111_0000_0001 = some (.sneImm 15 0x01) ∧
    decodeTableWord 16 0b0101_0001_0010_0000 = some (.seReg 1 2) ∧
    decodeTableWord 16 0b1001_0001_0010_0000 = some (.sneReg 1 2) ∧
    decodeTableWord 16 0b1110_0001_1001_1110 = some (.skp 1) ∧
    decodeTableWord 16 0b1110_0001_1010_0001 = some (.sknp 1) := by decide

theorem test_decode_alu :
    decodeTableWord 16 0b0110_1100_0000_0001 = some (.ldImm 12 0x01) ∧
    decodeTableWord 16 0b0111_0011_1000_0001 = some (.addImm 3 0x81) ∧
    decodeTableWord 16 0b1000_0001_0010_0000 = some (.ldReg 1 2) ∧
    decodeTableWord 16 0b1000_0001_0010_0001 = some (.or 1 2) ∧
    decodeTableWord 16 0b1000_0001_0010_0010 = some (.and 1 2) ∧
    decodeTableWord 16 0b1000_0001_0010_0011 = some (.xor 1 2) ∧
    decodeTableWord 16 0b1000_0001_0010_0100 = some (.addReg 1 2) ∧
    decodeTableWord 16 0b1000_0001_0010_0101 = some (.sub 1 2) ∧
    decodeTableWord 16 0b1000_0001_0010_0110 = some (.shr 1 2) ∧
    decodeTableWord 16 0b1000_0001_0010_0111 = some (.subn 1 2) ∧
    decodeTableWord 16 0b1000_0001_0010_1110 = some (.shl 1 2) ∧
    decodeTableWord 16 0b1100_0011_1111_0000 = some (.rnd 3 0xF0) := by decide

theorem test_decode_index_display :
    decodeTableWord 16 0b1010_0001_0010_0011 = some (.ldI 0x123) ∧
    decodeTableWord 16 0b1101_0001_0010_0101 = some (.drw 1 2 5) ∧
    decodeTableWord 16 0b1101_0001_0010_0000 = some (.drw 1 2 0) ∧
    decodeTableWord 16 0b1111_0001_0001_1110 = some (.addI 1) ∧
    decodeTableWord 16 0b1111_0001_0010_1001 = some (.ldF 1) ∧
    decodeTableWord 16 0b1111_0001_0011_0011 = some (.ldB 1) ∧
    decodeTableWord 16 0b1111_0001_0101_0101 = some (.ldMemVx 1) ∧
    decodeTableWord 16 0b1111_0001_0110_0101 = some (.ldVxMem 1) := by decide

theorem test_decode_timer_key :
    decodeTableWord 16 0b1111_1110_0000_0111 = some (.ldVxDt 14) ∧
    decodeTableWord 16 0b1111_1110_0000_1010 = some (.ldVxK 14) ∧
    decodeTableWord 16 0b1111_1110_0001_0101 = some (.ldDtVx 14) ∧
    decodeTableWord 16 0b1111_1110_0001_1000 = some (.ldStVx 14) := by decide

/-- The order of a word's bytes (R66), the bytes left over, and the truncated word. -/
theorem test_decode_bytes :
    decodeBytes [0x12, 0x34, 0x56] = .ok (.jp 0x234, [0x56]) ∧ decodeBytes [0x12] = .error .truncated ∧
      encodeBytes (.jp 0x234) = [0x12, 0x34] := by decide

/-- Encodings written out from R91 and R96. -/
theorem test_encode :
    encode (.sys 0x0FF) = 0x00FF ∧ encode (.seImm 10 0x7F) = 0x3A7F ∧ encode (.shl 1 2) = 0x812E ∧
      encode (.drw 1 2 5) = 0xD125 ∧ encode (.sknp 11) = 0xEBA1 ∧ encode (.ldMemVx 15) = 0xFF55 := by
  decide

/-- No two rows but SYS with CLS or RET take the same word (R94): their patterns differ on a bit both
masks look at. -/
theorem test_rows_disjoint :
    (opcodeRows.filter (fun r => r.pattern != 0x0000)).Pairwise
      (fun r q => (r.pattern ^^^ q.pattern) &&& (r.mask &&& q.mask) ≠ 0) := by decide

/-! ### One step of each instruction -/

/-- F1. -/
theorem test_sys : after 0x0123 State.reset (fun t => t.PC == 0x202 && t.V == State.reset.V) = true := by
  decide

/-- F9: the popped slot keeps its value. -/
theorem test_ret_pops :
    after 0x00EE { State.reset with SP := 2, stack := (State.reset.stack.set 0 0x204).set 1 0x312 }
      (fun t => t.SP == 1 && t.PC == 0x312 && t.stack[1] == 0x312) = true := by decide

/-- F8. -/
theorem test_ret_underflow :
    after 0x00EE State.reset (fun t => t.PC == 0x200 &&
      t.halt == some ⟨.stackUnderflow, 0x200, 0x00EE, 0, 0⟩) = true := by decide

/-- F4: an odd target above the program. -/
theorem test_jp : after 0x1FFD State.reset (fun t => t.PC == 0xFFD) = true := by decide

/-- F6: the 16th level. -/
theorem test_call_deepest :
    after 0x2400 { State.reset with SP := 15, PC := 0x300 }
      (fun t => t.stack[15] == 0x302 && t.SP == 16 && t.PC == 0x400) = true := by decide

/-- F7: the timers are not ticked. -/
theorem test_call_overflow :
    after 0x2400 { State.reset with SP := 16, PC := 0x300, DT := 2 }
      (fun t => t.halt == some ⟨.stackOverflow, 0x300, 0x2400, 16, 0⟩ && t.SP == 16 && t.PC == 0x300 &&
        t.DT == 2) = true := by decide

/-- F11: no 12-bit wrap. -/
theorem test_jpV0 : after 0xBFFF (regs [(0, 0xFF)]) (fun t => t.PC == 0x10FE) = true := by decide

/-- F12: V0, never V3. -/
theorem test_jpV0_register : after 0xB300 (regs [(0, 4), (3, 0x77)]) (fun t => t.PC == 0x304) = true := by
  decide

/-- F14. -/
theorem test_unrecognized :
    after 0xFFFF { State.reset with DT := 2, ST := 2 }
      (fun t => t.PC == 0x202 && t.DT == 1 && t.ST == 1 && t.audio == []) = true := by decide

/-- K1, K2. -/
theorem test_seImm :
    (after 0x332A (regs [(3, 0x2A)]) (fun t => t.PC == 0x204) &&
      after 0x332A (regs [(3, 0x2B)]) (fun t => t.PC == 0x202)) = true := by decide

/-- K3, K4. -/
theorem test_sneImm :
    (after 0x432A (regs [(3, 0x2A)]) (fun t => t.PC == 0x202) &&
      after 0x432A (regs [(3, 0x00)]) (fun t => t.PC == 0x204)) = true := by decide

/-- K5, K6. -/
theorem test_seReg :
    (after 0x5120 (regs [(1, 0x10), (2, 0x10)]) (fun t => t.PC == 0x204) &&
      after 0x5120 (regs [(1, 0x10), (2, 0x11)]) (fun t => t.PC == 0x202)) = true := by decide

/-- K8, K9. -/
theorem test_sneReg :
    (after 0x9120 (regs [(1, 0x10), (2, 0x11)]) (fun t => t.PC == 0x204) &&
      after 0x9440 (regs [(4, 0x33)]) (fun t => t.PC == 0x202)) = true := by decide

/-- K10, K11. -/
theorem test_skp :
    (after 0xE59E ((regs [(5, 0x0A)]).pressKey 10) (fun t => t.PC == 0x204) &&
      after 0xE59E (regs [(5, 0x0A)]) (fun t => t.PC == 0x202)) = true := by decide

/-- K14. -/
theorem test_skp_digitRange :
    after 0xE59E (regs [(5, 0x10)]) (fun t => t.PC == 0x200 &&
      t.halt == some ⟨.digitRange, 0x200, 0xE59E, 0, 0x0010⟩) = true := by decide

/-- K12, K13. -/
theorem test_sknp :
    (after 0xE5A1 ((regs [(5, 0x0A)]).pressKey 10) (fun t => t.PC == 0x202) &&
      after 0xE5A1 (regs [(5, 0x0A)]) (fun t => t.PC == 0x204)) = true := by decide

/-- K15. -/
theorem test_sknp_digitRange :
    after 0xE5A1 (regs [(5, 0xFF)])
      (fun t => t.halt == some ⟨.digitRange, 0x200, 0xE5A1, 0, 0x00FF⟩) = true := by decide

/-- A2. -/
theorem test_ldImm : after 0x6F05 State.reset (fun t => t.reg 15 == 5 && t.PC == 0x202) = true := by decide

/-- A3: a wrap without a flag. -/
theorem test_addImm :
    after 0x7103 (regs [(1, 0xFE)]) (fun t => t.reg 1 == 1 && t.reg 15 == 0) = true := by decide

/-- A6. -/
theorem test_ldReg : after 0x8120 (regs [(2, 0x33)]) (fun t => t.reg 1 == 0x33 && t.reg 2 == 0x33) = true := by
  decide

/-- A7. -/
theorem test_or : after 0x8121 (regs [(1, 0xF0), (2, 0x0F), (15, 1)])
    (fun t => t.reg 1 == 0xFF && t.reg 15 == 1) = true := by decide

/-- A8. -/
theorem test_and : after 0x8122 (regs [(1, 0xF0), (2, 0x3C), (15, 1)])
    (fun t => t.reg 1 == 0x30 && t.reg 15 == 1) = true := by decide

/-- A9. -/
theorem test_xor : after 0x8123 (regs [(1, 0xF0), (2, 0x3C), (15, 1)])
    (fun t => t.reg 1 == 0xCC && t.reg 15 == 1) = true := by decide

/-- A12, S2. -/
theorem test_addReg_carry : after 0x8124 (regs [(1, 0xFF), (2, 0x01)])
    (fun t => t.reg 1 == 0 && t.reg 15 == 1) = true := by decide

/-- A15: with x = 15 the sum is lost; A16: with y = 15 the old VF is the addend. -/
theorem test_addReg_vf :
    (after 0x8F14 (regs [(15, 2), (1, 3)]) (fun t => t.reg 15 == 0) &&
      after 0x81F4 (regs [(1, 0x10), (15, 1)]) (fun t => t.reg 1 == 0x11 && t.reg 15 == 0)) = true := by
  decide

/-- A18. -/
theorem test_sub_borrow : after 0x8125 (regs [(1, 3), (2, 5)])
    (fun t => t.reg 1 == 0xFE && t.reg 15 == 0) = true := by decide

/-- A19: equal operands, no borrow. -/
theorem test_sub_equal : after 0x8125 (regs [(1, 7), (2, 7)])
    (fun t => t.reg 1 == 0 && t.reg 15 == 1) = true := by decide

/-- A25: y ignored, logical shift. -/
theorem test_shr : after 0x8126 (regs [(1, 0xFF), (2, 0)])
    (fun t => t.reg 1 == 0x7F && t.reg 15 == 1 && t.reg 2 == 0) = true := by decide

/-- A26. -/
theorem test_shr_vf : after 0x8F06 (regs [(15, 3)]) (fun t => t.reg 15 == 1) = true := by decide

/-- A27, A28. -/
theorem test_subn :
    (after 0x8127 (regs [(1, 1), (2, 3)]) (fun t => t.reg 1 == 2 && t.reg 15 == 1) &&
      after 0x8127 (regs [(1, 3), (2, 1)]) (fun t => t.reg 1 == 0xFE && t.reg 15 == 0)) = true := by decide

/-- A33: y ignored. -/
theorem test_shl : after 0x812E (regs [(1, 1), (2, 0xFF)])
    (fun t => t.reg 1 == 2 && t.reg 15 == 0 && t.reg 2 == 0xFF) = true := by decide

/-- A34. -/
theorem test_shl_vf : after 0x8F0E (regs [(15, 1)]) (fun t => t.reg 15 == 0) = true := by decide

/-- A35. -/
theorem test_rnd : after 0xC30F { State.reset with rnd := [0xB7, 0x11] }
    (fun t => t.reg 3 == 7 && t.rnd == [0x11] && t.drawn == 1) = true := by decide

/-- A36: the byte is consumed whatever the mask. -/
theorem test_rnd_mask_zero : after 0xC300 { State.reset with rnd := [0xB7] }
    (fun t => t.reg 3 == 0 && t.rnd == []) = true := by decide

/-- M2. -/
theorem test_ldI : after 0xAFFF State.reset (fun t => t.I == 0xFFF && t.PC == 0x202) = true := by decide

/-- M4, M5. -/
theorem test_addI :
    (after 0xF21E { regs [(2, 1)] with I := 0xFFF } (fun t => t.I == 0x1000 && t.halt == none) &&
      after 0xF21E { regs [(2, 2)] with I := 0xFFFF } (fun t => t.I == 1 && t.reg 15 == 0)) = true := by
  decide

/-- M8. -/
theorem test_ldF : after 0xF429 (regs [(4, 0x0F)]) (fun t => t.I == 0x4B) = true := by decide

/-- M9. -/
theorem test_ldF_digitRange : after 0xF429 (regs [(4, 0x10)])
    (fun t => t.I == 0 && t.halt == some ⟨.digitRange, 0x200, 0xF429, 0, 0x0010⟩) = true := by decide

/-- M11, M14: the highest legal base. -/
theorem test_ldB :
    (after 0xF033 { regs [(0, 0xFF)] with I := 0x300 }
        (fun t => bytesFrom t 0x2FF 5 == [0, 2, 5, 5, 0] && t.I == 0x300) &&
      after 0xF033 { regs [(0, 9)] with I := 0xFFD } (fun t => bytesFrom t 0xFFD 3 == [0, 0, 9])) = true := by
  decide

/-- M15: nothing is written. -/
theorem test_ldB_dataBounds : after 0xF033 { regs [(0, 9)] with I := 0xFFE }
    (fun t => t.halt == some ⟨.dataBounds, 0x200, 0xF033, 0, 0x1000⟩ && bytesFrom t 0xFFE 2 == [0, 0])
      = true := by decide

/-- M17. -/
theorem test_ldMemVx : after 0xF155 { regs [(0, 0xAA), (1, 0xBB), (2, 0xCC)] with I := 0x400 }
    (fun t => bytesFrom t 0x3FF 4 == [0, 0xAA, 0xBB, 0] && t.I == 0x402) = true := by decide

/-- M20. -/
theorem test_ldMemVx_dataBounds : after 0xFF55 { regs [(0, 1)] with I := 0xFF1 }
    (fun t => t.halt == some ⟨.dataBounds, 0x200, 0xFF55, 0, 0x1000⟩ && t.byteAt 0xFF1 == 0 &&
      t.I == 0xFF1) = true := by decide

/-- M21. -/
theorem test_ldVxMem :
    after 0xF265 (withBytes 0x300 [1, 2, 3, 4] { regs [(3, 0x99)] with I := 0x300 })
      (fun t => t.reg 0 == 1 && t.reg 1 == 2 && t.reg 2 == 3 && t.reg 3 == 0x99 && t.I == 0x303)
      = true := by decide

/-- M23. -/
theorem test_ldVxMem_dataBounds : after 0xF165 { State.reset with I := 0xFFF }
    (fun t => t.halt == some ⟨.dataBounds, 0x200, 0xF165, 0, 0x1000⟩ && t.I == 0xFFF) = true := by decide

/-- P-1. -/
theorem test_cls : after 0x00E0 (withPixel 5 5 State.reset)
    (fun t => litCols t 5 == [] && t.dirty && t.PC == 0x202) = true := by decide

/-- P-4: columns 64 to 67 are dropped. -/
theorem test_drw_clip :
    after 0xD121 (withBytes 0x300 [0xFF] { regs [(1, 0x3C)] with I := 0x300 })
      (fun t => litCols t 0 == [60, 61, 62, 63] && t.reg 15 == 0 && t.dirty) = true := by decide

/-- P-17: one pixel unset, one set, collision. -/
theorem test_drw_collision :
    after 0xD101 (withBytes 0x300 [0x30] { withPixel 62 0 (regs [(1, 0x3C)]) with I := 0x300 })
      (fun t => litCols t 0 == [63] && t.reg 15 == 1) = true := by decide

/-- T1: the read comes before the tick. -/
theorem test_ldVxDt : after 0xF307 { State.reset with DT := 5 }
    (fun t => t.reg 3 == 5 && t.DT == 4) = true := by decide

/-- T14: the executing cycle does not poll. -/
theorem test_ldVxK : after 0xF10A (State.reset.pressKey 7)
    (fun t => t.wait == some 1 && t.PC == 0x202 && t.reg 1 == 0) = true := by decide

/-- T3, T4. -/
theorem test_ldDtVx :
    (after 0xF015 (regs [(0, 3)]) (fun t => t.DT == 2) &&
      after 0xF015 (regs [(0, 0)]) (fun t => t.DT == 0)) = true := by decide

/-- T6, T7. -/
theorem test_ldStVx :
    (after 0xF018 (regs [(0, 3)]) (fun t => t.ST == 2 && t.audio == []) &&
      after 0xF018 (regs [(0, 1)]) (fun t => t.ST == 0 && t.audio == [.beginTone])) = true := by decide

/-! ### Cycles that run no instruction, and host operations -/

/-- T17: the least pressed key. -/
theorem test_wait_least_key :
    nextHas (step { (((State.reset.pressKey 9).pressKey 2).pressKey 12) with wait := some 1 })
      (fun t => t.reg 1 == 2 && t.wait == none && t.PC == 0x200) = true := by decide

/-- T15, T20: a waiting cycle ticks. -/
theorem test_wait_ticks : nextHas (step { State.reset with wait := some 1, DT := 2, ST := 1 })
    (fun t => t.wait == some 1 && t.DT == 1 && t.ST == 0 && t.audio == [.beginTone]) = true := by decide

/-- F3, second cycle. -/
theorem test_fetchBounds : nextHas (step { State.reset with PC := 0xFFE })
    (fun t => t.halt == some ⟨.fetchBounds, 0xFFE, 0, 0, 0xFFE⟩ && t.PC == 0xFFE) = true := by decide

/-- F15. -/
theorem test_halted : nextHas (step { State.reset with DT := 3, halt := some ⟨.dataBounds, 0, 0, 0, 0⟩ })
    (fun t => t.DT == 3) = true := by decide

/-- H7. -/
theorem test_load : (State.reset.applyHostOp (.load [0x12, 0x00])).byteAt 0x200 = 0x12 := by decide

/-- H1, H3. -/
theorem test_keys : ((State.reset.pressKey 3).key[3] && !((State.reset.pressKey 3).releaseKey 3).key[3]) = true := by
  decide

/-- H12: the font and the emitted audio trace are all that is left. -/
theorem test_reset : (State.hostReset { State.reset with
    halt := some ⟨.dataBounds, 0, 0, 0, 0⟩, I := 3, SP := 2 }) = State.reset := by decide

/-- G2: glyph 7 of the default font, as program P7 has it. -/
theorem test_font : bytesFrom State.reset 35 5 = [0xF0, 0x10, 0x20, 0x40, 0x40] := by decide

theorem test_reset_memory_wf : State.reset.mem.wf := Memory.wf_reset _

/-- Writing back what an unlisted address reads as lists nothing. -/
theorem test_memory_canonical : ((State.reset.mem.write 0x300 7).write 0x300 0) = State.reset.mem := by decide

/-- What withFetchWord places is what the next step runs (log 26). -/
theorem test_withFetchWord :
    atInstr? (State.reset.withFetchWord 16 0x8124) (.addReg 1 2) = true ∧
      atInstr? ({ State.reset with PC := 0xFFE, wait := some 1 }.withFetchWord 16 0x8124) (.addReg 1 2)
        = true := by decide

/-! ### Witnesses: states and operands that meet every hypothesis of an obligation together

Each is named after its obligation, with one conjunct for each clause, at a boundary of the clause's
range. -/

/-- `s` with the word `w` placed where the next step fetches it. -/
def placed (w : Nat) (s : State) : State := s.withFetchWord 16 w

/-- A state in mode Halted. -/
def halted : State := State.reset.raise .stackUnderflow 0x00EE 0

/-- A state in mode WaitingForKey. -/
def waiting : State := { State.reset with wait := some 15 }

theorem nextHas_halt_none {r : Result} (h : nextHas r (fun t => t.halt == none) = true) :
    ∃ t, r = .next t ∧ t.halt = none := by
  obtain ⟨t, e, p⟩ := next_of_nextHas h
  exact ⟨t, e, by simpa using p⟩

theorem nextHas_halt_some {r : Result} (h : nextHas r (fun t => t.halt != none) = true) :
    ∃ t, r = .next t ∧ t.halt ≠ none := by
  obtain ⟨t, e, p⟩ := next_of_nextHas h
  exact ⟨t, e, by simpa using p⟩

theorem nextHas_any {r : Result} (h : nextHas r (fun _ => true) = true) : ∃ t, r = .next t := by
  obtain ⟨t, e, _⟩ := next_of_nextHas h
  exact ⟨t, e⟩

theorem witness_DecodeInvertsEncode :
    (Instr.sys 0x0E1).wf = true ∧ (Instr.drw 15 15 15).wf = true ∧ (Instr.unrecognized 0xFFFF).wf = true := by
  decide

theorem witness_StepRunsDecodedInstruction :
    (∃ s t i, s.AtInstr i ∧ exec i s = .next t ∧ t.halt = none) ∧
      ∃ s t i, s.AtInstr i ∧ exec i s = .next t ∧ t.halt ≠ none := by
  obtain ⟨t, e, h⟩ := nextHas_halt_none (r := exec (.jp 0x234) (placed 0x1234 State.reset)) (by decide)
  obtain ⟨u, f, g⟩ := nextHas_halt_some (r := exec .ret (placed 0x00EE State.reset)) (by decide)
  exact ⟨⟨_, t, _, atInstr_of (by decide), e, h⟩, ⟨_, u, _, atInstr_of (by decide), f, g⟩⟩

theorem witness_TickCountsDownAndTones :
    ({ State.reset with ST := 1 } : State).ST = 1 ∧ 1 < ({ State.reset with ST := 2 } : State).ST.toNat ∧
      State.reset.ST = 0 ∧ ∃ t, exec (.ldStVx 1) State.reset = .next t :=
  ⟨by decide, by decide, by decide, nextHas_any (by decide)⟩

theorem witness_RunningCycleTicksOnce :
    ∃ s t i, s.AtInstr i ∧ (∀ x, i ≠ .ldDtVx x) ∧ (∀ x, i ≠ .ldStVx x) ∧ step s = .next t ∧
      t.halt = none := by
  obtain ⟨t, e, h⟩ := nextHas_halt_none (r := step (placed 0x1234 { State.reset with ST := 1 })) (by decide)
  exact ⟨_, t, .jp 0x234, atInstr_of (by decide), by simp, by simp, e, h⟩

theorem witness_TimerInstructionsInTheirOwnCycle :
    (placed 0xFF15 (regs [(15, 1)])).AtInstr (.ldDtVx 15) ∧
      (placed 0xFF18 (regs [(15, 1)])).AtInstr (.ldStVx 15) ∧
      (placed 0xFF07 { State.reset with DT := 1 }).AtInstr (.ldVxDt 15) :=
  ⟨atInstr_of (by decide), atInstr_of (by decide), atInstr_of (by decide)⟩

/-- A quiet run of one cycle with the sound timer at 1, and a load of the value 2 followed by one. -/
theorem witness_SoundTimerTonesOnce :
    (∃ s t, s.ST = 1 ∧ QuietRun 1 s t) ∧
      ∃ s u t x, s.AtInstr (.ldStVx x) ∧ step s = .next u ∧ QuietRun 1 u t ∧ s.reg x = 2 := by
  have quiet : ∀ s, atInstr? s (.sys 0) = true →
      nextHas (step s) (fun t => t.halt == none) = true → ∃ t, QuietRun 1 s t := by
    intro s ha hn
    obtain ⟨t, e, h⟩ := nextHas_halt_none hn
    refine ⟨t, ?_, t, e, h, rfl⟩
    rintro ⟨x, hx⟩
    have h1 := (atInstr_of ha).2.2
    rw [hx.2.2] at h1
    cases h1
  refine ⟨?_, ?_⟩
  · obtain ⟨t, h⟩ := quiet { State.reset with ST := 1 } (by decide) (by decide)
    exact ⟨_, t, rfl, h⟩
  · obtain ⟨u, e, h⟩ := next_of_nextHas (r := step (placed 0xF018 (regs [(0, 2)])))
      (p := fun u => atInstr? u (.sys 0) && nextHas (step u) (fun t => t.halt == none)) (by decide)
    rw [Bool.and_eq_true] at h
    obtain ⟨t, q⟩ := quiet u h.1 h.2
    exact ⟨_, u, t, 0, atInstr_of (by decide), e, q, by decide⟩

theorem witness_HaltedStaysHalted :
    halted.halt ≠ none ∧ (HostOp.press 3 ≠ .reset) ∧ (HostOp.reset = .reset) := by decide

theorem witness_FetchBoundsHalts :
    ∃ s : State, s.Running ∧ s.PC.toNat = 4094 := ⟨{ State.reset with PC := 0xFFE }, ⟨rfl, rfl⟩, by decide⟩

/-- A fault of the fetch at 4094, and of an instruction at 4093, the last fetchable address. -/
theorem witness_FaultingCycleIsPrecise :
    (∃ s t r, s.halt = none ∧ step s = .next t ∧ t.halt = some r ∧ s.PC.toNat = 4094) ∧
      ∃ s t r, s.halt = none ∧ step s = .next t ∧ t.halt = some r ∧ s.PC.toNat = 4093 := by
  obtain ⟨t, e, h⟩ := nextHas_halt_some (r := step { State.reset with PC := 0xFFE }) (by decide)
  obtain ⟨u, f, g⟩ := nextHas_halt_some
    (r := step (placed 0x00EE { State.reset with PC := 0xFFD })) (by decide)
  obtain ⟨r, hr⟩ := Option.ne_none_iff_exists'.mp h
  obtain ⟨q, hq⟩ := Option.ne_none_iff_exists'.mp g
  exact ⟨⟨_, t, r, rfl, e, hr, by decide⟩, ⟨_, u, q, rfl, f, hq, by decide⟩⟩

theorem witness_EachInstructionRaisesOnlyItsFault :
    ∃ i s t, s.halt = none ∧ exec i s = .next t ∧ t.halt ≠ none := by
  obtain ⟨t, e, h⟩ := nextHas_halt_some (r := exec (.skp 1) (regs [(1, 16)])) (by decide)
  exact ⟨_, _, t, rfl, e, h⟩

theorem witness_PcUpdateOfEveryInstruction :
    (∃ i s t, s.halt = none ∧ exec i s = .next t ∧ t.halt = none) ∧
      (∃ i s t, s.halt = none ∧ exec i s = .next t ∧ t.halt ≠ none) ∧
      (∃ s t : State, s.halt ≠ none ∧ step s = .next t) ∧ (∃ s t : State, s.wait ≠ none ∧ step s = .next t) ∧
      ∃ s t : State, s.halt = none ∧ t.halt ≠ none ∧ step s = .next t := by
  obtain ⟨t, e, h⟩ := nextHas_halt_none (r := exec (.skp 1) ((regs [(1, 15)]).pressKey 15)) (by decide)
  obtain ⟨u, f⟩ := nextHas_any (r := step halted) (by decide)
  obtain ⟨v, g⟩ := nextHas_any (r := step waiting) (by decide)
  obtain ⟨w, k, l⟩ := nextHas_halt_some (r := step { State.reset with PC := 0xFFE }) (by decide)
  exact ⟨⟨_, _, t, rfl, e, h⟩, witness_EachInstructionRaisesOnlyItsFault, ⟨_, u, by decide, f⟩,
    ⟨_, v, by decide, g⟩, ⟨_, w, rfl, l, k⟩⟩

theorem witness_WriteSetsOfEveryInstruction :
    (∃ i s t, exec i s = .next t ∧ writesReg 3 i = false ∧ storeCount i = 0) ∧
      (∃ s t, exec (.ldB 1) s = .next t ∧ s.I.toNat + 2 = 4095) ∧
      ∃ s t, exec (.ldMemVx 15) s = .next t ∧ s.I.toNat + 15 = 4095 := by
  obtain ⟨t, e⟩ := nextHas_any (r := exec (.addReg 1 2) State.reset) (by decide)
  obtain ⟨u, f⟩ := nextHas_any (r := exec (.ldB 1) { State.reset with I := 0xFFD }) (by decide)
  obtain ⟨v, g⟩ := nextHas_any (r := exec (.ldMemVx 15) { State.reset with I := 0xFF0 }) (by decide)
  exact ⟨⟨_, _, t, e, by decide, rfl⟩, ⟨_, u, f, by decide⟩, ⟨_, v, g, by decide⟩⟩

/-- The stack pointer at 16, at 15 and at 0; also for the next three obligations. -/
theorem witness_CallReturnDiscipline :
    ({ State.reset with SP := 16 } : State).SP.val = 16 ∧ ({ State.reset with SP := 15 } : State).SP.val < 16 ∧
      State.reset.SP.val = 0 := by decide

theorem witness_CallPushesReturnAddress : ({ State.reset with SP := 15 } : State).SP.val < 16 := by decide

theorem witness_RetPopsReturnAddress :
    ({ State.reset with SP := 16 } : State).SP.val = (15 : Fin 16).val + 1 ∧
      ({ State.reset with SP := 1 } : State).SP.val = (0 : Fin 16).val + 1 ∧ State.reset.SP.val = 0 := by
  decide

theorem witness_StackFaultsHalt :
    ({ State.reset with SP := 16 } : State).SP.val = 16 ∧ State.reset.SP.val = 0 := by decide

/-- The least and the greatest word of the clause on unrecognized words. -/
theorem witness_SkipsCompareRegisters :
    (0x5001 : Word).toNat / 4096 = 5 ∧ (0x5001 : Word).toNat % 16 ≠ 0 ∧ (0x9FFF : Word).toNat / 4096 = 9 ∧
      (0x9FFF : Word).toNat % 16 ≠ 0 := by decide

/-- Key 15, pressed and not. -/
theorem witness_SkipsOnKeyLevel :
    ((regs [(1, 15)]).reg 1).toNat = (15 : RegIdx).val ∧ (regs [(1, 15)]).key[15] = false ∧
      (((regs [(1, 15)]).pressKey 15).reg 1).toNat = (15 : RegIdx).val ∧
      ((regs [(1, 15)]).pressKey 15).key[15] = true := by decide

theorem witness_DigitRangeHalts : 15 < ((regs [(1, 16)]).reg 1).toNat := by decide

theorem witness_AddSetsCarry : (1 : RegIdx) ≠ 15 := by decide

theorem witness_SubtractSetsNoBorrow : (1 : RegIdx) ≠ 15 := by decide

theorem witness_ShiftsInPlaceSetVf : (1 : RegIdx) ≠ 15 := by decide

/-- A flag writer, and an instruction that leaves register 15 alone. -/
theorem witness_VfWrittenOnlyAsFlag :
    (∃ i s t, s.halt = none ∧ exec i s = .next t ∧ t.halt = none ∧ writesFlag i = true) ∧
      ∃ i s t, s.halt = none ∧ exec i s = .next t ∧ t.halt = none ∧ writesFlag i = false ∧
        writesReg 15 i = false := by
  obtain ⟨t, e, h⟩ := nextHas_halt_none (r := exec (.sub 1 2) State.reset) (by decide)
  obtain ⟨u, f, g⟩ := nextHas_halt_none (r := exec (.or 1 15) State.reset) (by decide)
  exact ⟨⟨_, _, t, rfl, e, h, by decide⟩, ⟨_, _, u, rfl, f, g, by decide, by decide⟩⟩

/-- A stream with a byte fixed, and one with none. -/
theorem witness_RandomByteIsMasked :
    ({ State.reset with rnd := [0xB7] } : State).rnd = 0xB7 :: [] ∧ State.reset.rnd = [] := by decide

theorem witness_RandomConsumedOnlyByRnd :
    (∃ s t : State, step s = .next t ∧ ∃ x kk, s.AtInstr (.rnd x kk)) ∧
      ∃ s t : State, step s = .next t ∧ ¬ ∃ x kk, s.AtInstr (.rnd x kk) := by
  obtain ⟨t, e⟩ := nextHas_any (r := step (placed 0xC30F { State.reset with rnd := [0xB7] })) (by decide)
  obtain ⟨u, f⟩ := nextHas_any (r := step waiting) (by decide)
  refine ⟨⟨_, t, e, 3, 0x0F, atInstr_of (by decide)⟩, ⟨_, u, f, ?_⟩⟩
  rintro ⟨x, kk, h⟩
  exact absurd h.1.2 (by decide)

theorem witness_OnlyRndReadsTheRandomStream :
    ∃ i s t, (∀ x kk, i ≠ .rnd x kk) ∧ exec i s = .next t := by
  obtain ⟨t, e⟩ := nextHas_any (r := exec (.addReg 1 2) State.reset) (by decide)
  exact ⟨_, _, t, by simp, e⟩

theorem witness_NoInstructionReadsSoundTimerDirtyOrAudio : ∃ i s t, exec i s = .next t := by
  obtain ⟨t, e⟩ := nextHas_any (r := exec (.ldStVx 1) State.reset) (by decide)
  exact ⟨_, _, t, e⟩

theorem witness_AddIndexAndFontPointer : ((regs [(1, 15)]).reg 1).toNat ≤ 15 := by decide

theorem witness_BcdStoreWritesDigits :
    ({ State.reset with I := 0xFFD } : State).I.toNat + 2 = 4095 := by decide

/-- The last dump that fits and the first that does not; also for the next three obligations. -/
theorem witness_RegisterDumpStoresAndAdvances :
    ({ State.reset with I := 0xFF0 } : State).I.toNat + (15 : RegIdx).val = 4095 ∧
      4095 < ({ State.reset with I := 0xFF1 } : State).I.toNat + (15 : RegIdx).val := by decide

theorem witness_RegisterLoadReadsAndAdvances :
    ({ State.reset with I := 0xFFF } : State).I.toNat + (0 : RegIdx).val = 4095 ∧
      4095 < ({ State.reset with I := 0x1000 } : State).I.toNat + (0 : RegIdx).val := by decide

theorem witness_DumpThenLoadRestores :
    ({ State.reset with I := 0xFF0 } : State).I.toNat + (15 : RegIdx).val ≤ 4095 := by decide

/-- Each clause at its first faulting index. -/
theorem witness_DataBoundsHalts :
    4095 < ({ State.reset with I := 0xFFE } : State).I.toNat + 2 ∧
      4095 < ({ State.reset with I := 0x1000 } : State).I.toNat + (0 : RegIdx).val ∧
      0 < (2 : Fin 16).val ∧ 4095 < ({ State.reset with I := 0xFFF } : State).I.toNat + (2 : Fin 16).val - 1 := by
  decide

theorem witness_StoredBytesAreFetched :
    1 ≤ (1 : RegIdx).val ∧ ({ State.reset with I := 0xFFD } : State).I.toNat + (1 : RegIdx).val ≤ 4095 ∧
      ({ State.reset with I := 0xFFD } : State).I.toNat < 4094 := by decide

theorem witness_CanonicalMemoriesAreDeterminedByReads :
    ∃ m n : Memory, m.wf ∧ n.wf ∧ m.font = n.font ∧ (∀ a, m.read a = n.read a) ∧ m.cells ≠ [] := by
  have h := Memory.wf_write (Memory.wf_reset defaultFont) (a := 0x300) (by decide) 7
  exact ⟨_, _, h, h, rfl, fun _ => rfl, by decide⟩

/-- The last sprite that fits, and the sprite without rows anywhere. -/
theorem witness_DrwXorsTheSprite :
    ({ State.reset with I := 0xFF1 } : State).I.toNat + (15 : Fin 16).val - 1 = 4095 ∧ (0 : Fin 16).val = 0 := by
  decide

theorem witness_DrwOffTheGridDrawsNothing :
    ({ regs [(1, 64)] with I := 0x300 } : State).I.toNat + (1 : Fin 16).val - 1 ≤ 4095 ∧
      64 ≤ ((regs [(1, 64)]).reg 1).toNat ∧ 32 ≤ ((regs [(2, 32)]).reg 2).toNat ∧ (0 : Fin 16).val = 0 := by
  decide

theorem witness_DrwTwiceCancels :
    State.reset.I.toNat + (15 : Fin 16).val - 1 ≤ 4095 ∧ ∀ row col, State.reset.pixel row col = false :=
  ⟨by decide, fun row col => by simp [State.pixel, State.reset]⟩

theorem witness_WaitingChangesOnlyTimersAndTarget :
    ∃ s t r, s.halt = none ∧ s.wait = some r ∧ step s = .next t ∧ ∀ k : RegIdx, s.key[k] = false := by
  obtain ⟨t, e⟩ := nextHas_any (r := step waiting) (by decide)
  exact ⟨_, t, 15, rfl, rfl, e, by decide⟩

/-- The lowest key is 15, and is 0. -/
theorem witness_WaitingStoresLowestPressedKey :
    (∃ s : State, ∃ r : RegIdx, s.halt = none ∧ s.wait = some r ∧ s.key[(15 : RegIdx)] = true ∧
        ∀ j : RegIdx, j < 15 → s.key[j] = false) ∧
      ∃ s : State, ∃ r : RegIdx, s.halt = none ∧ s.wait = some r ∧ s.key[(0 : RegIdx)] = true :=
  ⟨⟨waiting.pressKey 15, 15, rfl, rfl, by decide, by decide⟩, ⟨waiting.pressKey 0, 15, rfl, rfl, by decide⟩⟩

theorem witness_WaitLastsWhileNoKeyIsPressed :
    waiting.halt = none ∧ waiting.wait = some 15 ∧ ∀ j : RegIdx, waiting.key[j] = false := by decide

/-- The invariant holds of a state the next step runs an instruction from, of a waiting one and of a halted
one. -/
theorem witness_StepKeepsTheInvariant :
    Inv State.reset ∧ (∃ t, step State.reset = .next t) ∧ Inv waiting ∧ (∃ t, step waiting = .next t) ∧
      Inv halted ∧ ∃ t, step halted = .next t := by
  refine ⟨⟨Memory.wf_reset _, by decide, fun j h => absurd h (by simp [State.reset]), .inl rfl, by simp [State.reset]⟩,
    nextHas_any (by decide),
    ⟨Memory.wf_reset _, by decide, fun j h => absurd h (by simp [waiting, State.reset]), .inl rfl,
      by simp [waiting, State.reset]⟩,
    nextHas_any (by decide),
    ⟨Memory.wf_reset _, by decide, fun j h => absurd h (by simp [halted, State.raise, State.reset]), .inr rfl, ?_⟩,
    nextHas_any (by decide)⟩
  intro r h
  injection h with h
  subst h
  exact ⟨rfl, rfl, rfl, rfl⟩

theorem witness_EveryHostRunKeepsTheInvariant : Inv State.reset ∧ Inv halted :=
  ⟨witness_StepKeepsTheInvariant.1, witness_StepKeepsTheInvariant.2.2.2.2.1⟩

theorem witness_ResetRestoresEveryValue :
    halted.hostReset = halted.hostReset ∧ State.reset = State.reset := ⟨rfl, rfl⟩

/-- The largest program that fits, the smallest that does not, and a program of one instruction. -/
theorem witness_LoadCopiesTheProgram :
    (List.replicate 3584 (0 : Byte)).length ≤ 3584 ∧ 3584 < (List.replicate 3585 (0 : Byte)).length ∧
      ([0x12, 0x34] : List Byte) = 0x12 :: 0x34 :: [] ∧ ([0x12, 0x34] : List Byte).length ≤ 3584 :=
  ⟨List.length_replicate.le, List.length_replicate.symm ▸ Nat.lt_succ_self 3584, rfl, by decide⟩

theorem witness_KeyOperationsSetOneKey :
    waiting.key[(15 : RegIdx)] = false ∧ waiting.halt = none ∧ waiting.wait = some 15 := by decide

theorem witness_RedrawFlagIsSticky :
    (∃ s t : State, step s = .next t ∧ s.dirty = true) ∧
      (∃ s t : State, step s = .next t ∧ s.AtInstr .cls) ∧
      (∃ s t : State, ∃ x y n, step s = .next t ∧ s.AtInstr (.drw x y n) ∧ t.halt = none) ∧
      ∃ (s : State) (op : HostOp), op ≠ .ackRedraw ∧ op ≠ .reset ∧ s.dirty = true := by
  obtain ⟨t, e⟩ := nextHas_any (r := step { State.reset with dirty := true }) (by decide)
  obtain ⟨u, f⟩ := nextHas_any (r := step (placed 0x00E0 State.reset)) (by decide)
  obtain ⟨v, g, h⟩ := nextHas_halt_none (r := step (placed 0xD125 State.reset)) (by decide)
  exact ⟨⟨_, t, e, rfl⟩, ⟨_, u, f, atInstr_of (by decide)⟩,
    ⟨_, v, 1, 2, 5, g, atInstr_of (by decide), h⟩,
    ⟨{ State.reset with dirty := true }, .press 3, by decide, by decide, rfl⟩⟩

end Sys2Proof.Tests
end

namespace Sys2Proof.Machine

/-! ### The effect of an instruction, said once

`exec` is 36 arms; every one of them either enters a fault or writes the parts of R43 and then PC as R25
says. `exec_eq` ties the three functions below to `exec`; later proofs go through them. -/

/-- The DataBounds fault of an instruction that touches `n` bytes at `I` (spec/60_exceptions.md R224). -/
def State.dataBoundsFault? (s : State) (n : Nat) : Option (Fault × Word) :=
  (s.dataFault? n).map (Prod.mk .dataBounds)

/-- The DigitRange fault of an instruction that takes the digit in Vx (spec/60_exceptions.md R225). -/
def State.digitFault? (s : State) (x : RegIdx) : Option (Fault × Word) :=
  if 15 < (s.reg x).toNat then some (.digitRange, byteOperand (s.reg x)) else none

/-- The cause and the offending address of the fault an instruction raises, if it raises one. -/
def State.fault? (s : State) : Instr → Option (Fault × Word)
  | .call _ => if s.SP.val = 16 then some (.stackOverflow, 0) else none
  | .ret => if s.SP.val = 0 then some (.stackUnderflow, 0) else none
  | .drw _ _ n => s.dataBoundsFault? n.val
  | .ldB _ => s.dataBoundsFault? 3
  | .ldMemVx x | .ldVxMem x => s.dataBoundsFault? (x.val + 1)
  | .skp x | .sknp x | .ldF x => s.digitFault? x
  | .cls | .sys _ | .jp _ | .seImm _ _ | .sneImm _ _ | .seReg _ _ | .ldImm _ _ | .addImm _ _
  | .ldReg _ _ | .or _ _ | .and _ _ | .xor _ _ | .addReg _ _ | .sub _ _ | .shr _ _ | .subn _ _
  | .shl _ _ | .sneReg _ _ | .ldI _ | .jpV0 _ | .rnd _ _ | .ldVxDt _ | .ldVxK _ | .ldDtVx _
  | .ldStVx _ | .addI _ | .unrecognized _ => none

theorem State.fault?_call_full {s : State} (h : s.SP.val = 16) (nnn : Addr12) :
    s.fault? (.call nnn) = some (.stackOverflow, 0) := if_pos h

theorem State.fault?_call_of_lt {s : State} (h : s.SP.val < 16) (nnn : Addr12) :
    s.fault? (.call nnn) = none := if_neg h.ne

theorem State.fault?_ret_empty {s : State} (h : s.SP.val = 0) :
    s.fault? .ret = some (.stackUnderflow, 0) := if_pos h

theorem State.fault?_ret_of_ne {s : State} (h : s.SP.val ≠ 0) : s.fault? .ret = none := if_neg h

/-- What DRW has drawn when it is done. -/
def State.drawSprite (s : State) (x y : RegIdx) (n : Fin 16) : Canvas :=
  drawRows (s.reg x).toNat (s.reg y).toNat (s.spriteBytes n.val) { fb := s.fb, collision := false }

/-- The state after an instruction's writes beside PC (spec/10_state.md R43). -/
def State.writes (s : State) : Instr → State
  | .cls => { s with fb := clearedFb, dirty := true }
  | .ret => { s with SP := ⟨s.SP.val - 1, by omega⟩ }
  | .call _ =>
    { s with
      stack := if h : s.SP.val < Config.stackDepth then s.stack.set s.SP.val (s.PC + 2) else s.stack
      SP := ⟨min (s.SP.val + 1) 16, by omega⟩ }
  | .ldImm x kk => s.setReg x kk
  | .addImm x kk => s.setReg x (s.reg x + kk)
  | .ldReg x y => s.setReg x (s.reg y)
  | .or x y => s.setReg x (s.reg x ||| s.reg y)
  | .and x y => s.setReg x (s.reg x &&& s.reg y)
  | .xor x y => s.setReg x (s.reg x ^^^ s.reg y)
  | .addReg x y => s.setResultFlag x (s.reg x + s.reg y) (carryOut (s.reg x) (s.reg y))
  | .sub x y => s.setResultFlag x (s.reg x - s.reg y) (noBorrow (s.reg x) (s.reg y))
  | .shr x _ => s.setResultFlag x (s.reg x >>> 1) (rightShiftOut (s.reg x))
  | .subn x y => s.setResultFlag x (s.reg y - s.reg x) (noBorrow (s.reg y) (s.reg x))
  | .shl x _ => s.setResultFlag x (s.reg x <<< 1) (leftShiftOut (s.reg x))
  | .rnd x kk => s.drawRandom.setReg x (s.randomByte &&& kk)
  | .ldI nnn => { s with I := addrOperand nnn }
  | .addI x => { s with I := s.I + byteOperand (s.reg x) }
  | .ldF x => { s with I := BitVec.ofNat 16 (Config.glyphBytes * (s.reg x).toNat) }
  | .drw x y n =>
    ({ s with fb := (s.drawSprite x y n).fb, dirty := true } : State).setFlag
      (s.drawSprite x y n).collision
  | .ldVxDt x => s.setReg x s.DT
  | .ldVxK x => { s with wait := some x }
  | .ldDtVx x => { s with DT := s.reg x }
  | .ldStVx x => { s with ST := s.reg x }
  | .ldB x => s.storeRun (s.dataAddr 0) (decimalDigits (s.reg x))
  | .ldMemVx x => (s.storeRun (s.dataAddr 0) (s.regsUpTo x)).advanceI x
  | .ldVxMem x => (s.loadRegs x).advanceI x
  | .sys _ | .jp _ | .jpV0 _ | .seImm _ _ | .sneImm _ _ | .seReg _ _ | .sneReg _ _ | .skp _ | .sknp _
  | .unrecognized _ => s

/-- The state after an instruction that raises no fault: its writes, and PC as R25 says. -/
def State.effect (s : State) (i : Instr) : State := (s.writes i).jump (s.pcAfter i)

/-- The state after an instruction: the fault entered, or the effect. -/
def State.executed (s : State) (i : Instr) : State :=
  (s.fault? i).elim (s.effect i) fun f => s.raise f.1 (encode i) f.2

theorem State.executed_of_some {s : State} {i : Instr} {c : Fault} {a : Word}
    (h : s.fault? i = some (c, a)) : s.executed i = s.raise c (encode i) a := by
  simp [State.executed, h]

theorem State.executed_of_none {s : State} {i : Instr} (h : s.fault? i = none) :
    s.executed i = s.effect i := by
  simp [State.executed, h]

theorem State.skipIf_eq_jump (s : State) (c : Bool) :
    s.skipIf c = s.jump (if c then s.PC + 4 else s.PC + 2) := by cases c <;> rfl

/-- The key latch at a digit, as `pcAfter` reads it. -/
theorem getElem?_of_digit? {key : Vector Bool Config.nKeys} {b : Byte} {k : RegIdx}
    (h : digit? b = some k) : key[b.toNat]? = some key[k] := by
  rw [digit?_eq_some.mp h]; simp

/-- A meaning that checks its data range first enters DataBounds, or goes on to `e`. -/
theorem dataChecked_eq (s e : State) (n : Nat) (w : Word) :
    (match s.dataFault? n with
      | some a => (.next (s.raise .dataBounds w a) : Result)
      | none => .next e) =
      .next ((s.dataBoundsFault? n).elim e fun f => s.raise f.1 w f.2) := by
  unfold State.dataBoundsFault?
  cases s.dataFault? n <;> rfl

/-- A meaning that checks its digit first enters DigitRange, or goes on to `e`. -/
theorem digitChecked_eq {s e : State} {x : RegIdx} {w : Word} {f : RegIdx → State}
    (hf : ∀ d, digit? (s.reg x) = some d → f d = e) :
    (match digit? (s.reg x) with
      | some d => (.next (f d) : Result)
      | none => .next (s.raise .digitRange w (byteOperand (s.reg x)))) =
      .next ((s.digitFault? x).elim e fun f => s.raise f.1 w f.2) := by
  unfold State.digitFault?
  split
  · next d h => 
    have hd := digit?_eq_some.mp h
    rw [if_neg (by omega), hf d h, Option.elim_none]
  · next h => rw [if_pos (digit?_eq_none.mp h)]; rfl

theorem execCall_eq (nnn : Addr12) (s : State) :
    execCall nnn s = .next (s.executed (.call nnn)) := by
  have hsp := s.SP.isLt
  unfold execCall
  split
  · next h =>
    have hlt : s.SP.val < 16 := h
    have hmin : min (s.SP.val + 1) 16 = s.SP.val + 1 := by omega
    rw [State.executed_of_none (State.fault?_call_of_lt hlt nnn)]
    simp only [State.effect, State.writes, State.jump, State.pcAfter, addrOperand, dif_pos h, hmin]
  · next h =>
    have hfull : s.SP.val = 16 := by simp only [Config.stackDepth] at h; omega
    rw [State.executed_of_some (State.fault?_call_full hfull nnn)]

theorem execRet_eq (s : State) : execRet s = .next (s.executed .ret) := by
  have hsp := s.SP.isLt
  unfold execRet
  split
  · next h => rw [State.executed_of_some (State.fault?_ret_empty h)]
  · next h =>
    have hlt : s.SP.val - 1 < 16 := by omega
    rw [State.executed_of_none (State.fault?_ret_of_ne h)]
    simp [State.effect, State.writes, State.jump, State.pcAfter, hlt]

/-- Execute, said once: the fault an instruction raises, or its writes with PC as R25 says. -/
theorem exec_eq (i : Instr) (s : State) : exec i s = .next (s.executed i) := by
  cases i with
  | call nnn => exact execCall_eq nnn s
  | ret => exact execRet_eq s
  | seImm x kk | seReg x y =>
    rw [State.executed_of_none rfl]
    simp [exec, execSeImm, execSeReg, State.skipIf_eq_jump, State.effect, State.writes, State.pcAfter]
  | sneImm x kk | sneReg x y =>
    rw [State.executed_of_none rfl]
    simp [exec, execSneImm, execSneReg, State.skipIf_eq_jump, State.effect, State.writes,
      State.pcAfter]
  | skp x =>
    refine digitChecked_eq fun d hd => ?_
    simp [State.skipIf_eq_jump, State.effect, State.writes, State.pcAfter, getElem?_of_digit? hd]
  | sknp x =>
    refine digitChecked_eq fun d hd => ?_
    rw [State.skipIf_eq_jump, State.effect, State.pcAfter, getElem?_of_digit? hd]
    cases s.key[d] <;> rfl
  | ldF x =>
    refine digitChecked_eq fun d hd => ?_
    simp [glyphAddr, digit?_eq_some.mp hd, State.effect, State.writes, State.pcAfter, State.jump,
      State.next]
  | drw x y n => exact dataChecked_eq s (s.effect (.drw x y n)) n.val (encode (.drw x y n))
  | ldB x => exact dataChecked_eq s (s.effect (.ldB x)) 3 (encode (.ldB x))
  | ldMemVx x => exact dataChecked_eq s (s.effect (.ldMemVx x)) (x.val + 1) (encode (.ldMemVx x))
  | ldVxMem x =>
    have he : s.effect (.ldVxMem x) = ((s.loadRegs x).advanceI x).next := by
      simp [State.next, State.effect, State.writes, State.jump, State.pcAfter]
    rw [State.executed, he]
    exact dataChecked_eq s _ (x.val + 1) (encode (.ldVxMem x))
  | _ => rfl

end Sys2Proof.Machine

namespace Sys2Proof.Machine

/-! ### What executing an instruction can do -/

theorem State.fault?_cause {s : State} {i : Instr} {c : Fault} {a : Word}
    (h : s.fault? i = some (c, a)) : faultOf i = some c := by
  cases i with
  | call _ | ret =>
    obtain ⟨-, hc⟩ := Option.ite_none_right_eq_some.mp h
    cases hc
    rfl
  | drw _ _ _ | ldB _ | ldMemVx _ | ldVxMem _ =>
    obtain ⟨_, -, hc⟩ := Option.map_eq_some_iff.mp h
    cases hc
    rfl
  | skp _ | sknp _ | ldF _ =>
    obtain ⟨-, hc⟩ := Option.ite_none_right_eq_some.mp h
    cases hc
    rfl
  | _ => cases h

/-- An instruction enters its fault, or raises none and has its effect. -/
theorem exec_cases {i : Instr} {s t : State} (h : exec i s = .next t) :
    (∃ c a, s.fault? i = some (c, a) ∧ t = s.raise c (encode i) a) ∨
    (s.fault? i = none ∧ t = s.effect i) := by
  rw [exec_eq] at h
  injection h with h
  subst h
  cases hf : s.fault? i with
  | some f => exact .inl ⟨f.1, f.2, rfl, State.executed_of_some hf⟩
  | none => exact .inr ⟨rfl, State.executed_of_none hf⟩

theorem State.raise_halt_ne_none (s : State) (c : Fault) (w a : Word) : (s.raise c w a).halt ≠ none :=
  Option.some_ne_none _

/-- Where nothing has faulted after an instruction, it had its effect. -/
theorem exec_cases_of_safe {i : Instr} {s t : State} (h : exec i s = .next t) (ht : t.halt = none) :
    s.fault? i = none ∧ t = s.effect i := by
  obtain ⟨c, a, -, rfl⟩ | h := exec_cases h
  · exact absurd ht (s.raise_halt_ne_none _ _ _)
  · exact h

/-! ### Fields of the effect -/

@[simp] theorem State.effect_PC (s : State) (i : Instr) : (s.effect i).PC = s.pcAfter i := rfl

/-- The bytes an instruction stores, from `State.dataAddr 0` upward (spec/10_state.md R43). -/
def State.storedBytes (s : State) : Instr → List Byte
  | .ldB x => decimalDigits (s.reg x)
  | .ldMemVx x => s.regsUpTo x
  | _ => []

theorem State.storedBytes_length (s : State) (i : Instr) :
    (s.storedBytes i).length = storeCount i := by
  cases i with
  | ldMemVx x => exact s.regsUpTo_length x
  | _ => rfl

theorem State.effect_mem (s : State) (i : Instr) :
    (s.effect i).mem = s.mem.writeRun (s.dataAddr 0) (s.storedBytes i) := by
  cases i with
  | ldVxMem x => simp [State.effect, State.writes, State.storedBytes, Memory.writeRun]
  | _ => rfl

/-- The stores of an instruction that raises no fault are inside the memory (spec/20_memory.md R69). -/
theorem State.stores_inside {s : State} {i : Instr} (h : s.fault? i = none) :
    storeCount i = 0 ∨ s.I.toNat + storeCount i ≤ 4096 := by
  cases i with
  | ldB _ | ldMemVx _ =>
    have hd := State.dataFault?_eq_none.mp (Option.map_eq_none_iff.mp h)
    simp only [storeCount]
    omega
  | _ => exact .inl rfl

theorem State.effect_keepsBytesOutside (s : State) (i : Instr) :
    KeepsBytesOutside (s.dataAddr 0) (storeCount i) s (s.effect i) := by
  intro a ha
  have hb : (s.effect i).byteAt a = (s.storeRun (s.dataAddr 0) (s.storedBytes i)).byteAt a :=
    State.byteAt_congr (t := s.effect i) (s := s.storeRun _ _) (s.effect_mem i) a
  rw [hb]
  exact s.storeRun_keepsBytesOutside _ _ a (by rwa [s.storedBytes_length])

theorem State.effect_reg {s : State} {i : Instr} {r : RegIdx} (h : writesReg r i = false) :
    (s.effect i).reg r = s.reg r := by
  show (s.writes i).reg r = s.reg r
  cases i with
  | ldImm x _ | addImm x _ | ldReg x _ | or x _ | and x _ | xor x _ | rnd x _ | ldVxDt x =>
    have hr : r ≠ x := by simpa [writesReg] using h
    exact (State.reg_setReg _ _ _ _).trans (if_neg hr)
  | addReg x _ | sub x _ | subn x _ | shr x _ | shl x _ =>
    obtain ⟨hx, h15⟩ : r ≠ x ∧ r ≠ 15 := by simpa [writesReg] using h
    exact (State.reg_setResultFlag _ _ _ _ _).trans ((if_neg h15).trans (if_neg hx))
  | drw _ _ _ =>
    have h15 : r ≠ 15 := by simpa [writesReg] using h
    exact (State.reg_setFlag _ _ _).trans (if_neg h15)
  | ldVxMem x =>
    have hr : ¬ r ≤ x := by simpa [writesReg] using h
    have hV : (s.writes (.ldVxMem x)).V = (s.loadRegs x).V := by simp [State.writes]
    exact (State.reg_congr hV r).trans ((s.reg_loadRegs x r).trans (if_neg hr))
  | _ => rfl

/-! ### Frames -/

theorem KeepsAllBut.refl (l : List Part) (s : State) : KeepsAllBut l s s := by
  intro p _
  cases p <;> simp [Part.Same]

theorem Part.Same.trans {p : Part} {s t u : State} (h : p.Same s t) (k : p.Same t u) :
    p.Same s u := by
  cases p <;> simp_all [Part.Same]

theorem KeepsAllBut.trans {l m : List Part} {s t u : State} (h : KeepsAllBut l s t)
    (k : KeepsAllBut m t u) : KeepsAllBut (l ++ m) s u := by
  intro p hp
  simp only [List.mem_append, not_or] at hp
  exact (h p hp.1).trans (k p hp.2)

theorem KeepsAllBut.mono {l m : List Part} {s t : State} (h : KeepsAllBut l s t) (hlm : l ⊆ m) :
    KeepsAllBut m s t := fun p hp => h p fun hl => hp (hlm hl)

theorem keepsAllBut_setReg (s : State) (x : RegIdx) (b : Byte) :
    KeepsAllBut [.V] s (s.setReg x b) := by
  intro p hp
  cases p <;> simp_all [Part.Same, State.byteAt]

theorem keepsAllBut_setResultFlag (s : State) (x : RegIdx) (b : Byte) (f : Bool) :
    KeepsAllBut [.V] s (s.setResultFlag x b f) := by
  intro p hp
  cases p <;> simp_all [Part.Same, State.byteAt]

theorem keepsAllBut_jump (s : State) (w : Word) : KeepsAllBut [.PC] s (s.jump w) := by
  intro p hp
  cases p <;> simp_all [Part.Same, State.byteAt, State.reg]

theorem keepsAllBut_tick (s : State) : KeepsAllBut [.DT, .ST, .audio] s s.tick := by
  intro p hp
  cases p <;> simp_all [Part.Same]

theorem keepsAllBut_ackRedraw (s : State) : KeepsAllBut [.dirty] s s.ackRedraw := by
  intro p hp
  cases p <;> simp_all [Part.Same, State.byteAt, State.reg]

theorem keepsAllBut_loadRegs (s : State) (x : RegIdx) : KeepsAllBut [.V] s (s.loadRegs x) := by
  intro p hp
  cases p <;> simp_all [Part.Same, State.byteAt]

theorem keepsAllBut_storeRun (s : State) (a : Nat) (bs : List Byte) :
    KeepsAllBut [.mem] s (s.storeRun a bs) := by
  intro p hp
  cases p <;> simp_all [Part.Same, State.reg]

theorem keepsAllBut_advanceI (s : State) (x : RegIdx) : KeepsAllBut [.I] s (s.advanceI x) := by
  intro p hp
  cases p <;> simp_all [Part.Same, State.byteAt, State.reg]

theorem keepsAllBut_drawRandom (s : State) : KeepsAllBut [.random] s s.drawRandom := by
  intro p hp
  cases p <;> simp_all [Part.Same, State.byteAt, State.reg]

theorem keepsAllBut_setI (s : State) (w : Word) : KeepsAllBut [.I] s { s with I := w } := by
  intro p hp
  cases p <;> simp_all [Part.Same, State.byteAt, State.reg]

theorem keepsAllBut_setStack (s : State) (st : Vector Word Config.stackDepth) (sp : Fin 17) :
    KeepsAllBut [.stack, .SP] s { s with stack := st, SP := sp } := by
  intro p hp
  cases p <;> simp_all [Part.Same, State.byteAt, State.reg]

theorem keepsAllBut_display (s : State) (f : Framebuffer) (d : Bool) :
    KeepsAllBut [.fb, .dirty] s { s with fb := f, dirty := d } := by
  intro p hp
  cases p <;> simp_all [Part.Same, State.byteAt, State.reg]

/-- Beside PC an instruction writes the parts R43 lists. -/
theorem State.writes_keepsAllBut (s : State) (i : Instr) :
    KeepsAllBut (writeParts i) s (s.writes i) := by
  cases i with
  | ldImm _ _ | addImm _ _ | ldReg _ _ | or _ _ | and _ _ | xor _ _ | ldVxDt _ =>
    exact keepsAllBut_setReg _ _ _
  | addReg _ _ | sub _ _ | subn _ _ | shr _ _ | shl _ _ => exact keepsAllBut_setResultFlag _ _ _ _
  | rnd x kk =>
    exact ((keepsAllBut_drawRandom s).trans (keepsAllBut_setReg _ _ _)).mono
      (show ([.random, .V] : List Part) ⊆ [.V, .random] by decide)
  | cls => exact keepsAllBut_display _ _ _
  | drw x y n =>
    exact ((keepsAllBut_display s _ _).trans (keepsAllBut_setReg _ _ _)).mono
      (show ([.fb, .dirty, .V] : List Part) ⊆ [.fb, .V, .dirty] by decide)
  | ldB _ => exact keepsAllBut_storeRun _ _ _
  | ldMemVx _ => exact (keepsAllBut_storeRun _ _ _).trans (keepsAllBut_advanceI _ _)
  | ldVxMem _ => exact (keepsAllBut_loadRegs _ _).trans (keepsAllBut_advanceI _ _)
  | call _ => exact keepsAllBut_setStack _ _ _
  | ldI _ | addI _ | ldF _ => exact keepsAllBut_setI _ _
  | ret | ldVxK _ | ldDtVx _ | ldStVx _ =>
    intro p hp
    cases p <;> simp_all [writeParts, State.writes, Part.Same, State.byteAt, State.reg]
  | _ => exact .refl _ _

theorem State.effect_keepsAllBut (s : State) (i : Instr) :
    KeepsAllBut (.PC :: writeParts i) s (s.effect i) :=
  ((s.writes_keepsAllBut i).trans (keepsAllBut_jump _ _)).mono (by simp)

/-- No instruction writes the key latch or the halt record (spec/10_state.md R43). -/
theorem not_mem_writeParts {p : Part} (h : p = .key ∨ p = .halt) (i : Instr) :
    p ∉ Part.PC :: writeParts i := by
  rcases h with rfl | rfl <;> cases i <;> simp [writeParts]

@[simp] theorem State.effect_key (s : State) (i : Instr) : (s.effect i).key = s.key :=
  s.effect_keepsAllBut i .key (not_mem_writeParts (.inl rfl) i)

@[simp] theorem State.effect_halt (s : State) (i : Instr) : (s.effect i).halt = s.halt :=
  s.effect_keepsAllBut i .halt (not_mem_writeParts (.inr rfl) i)

end Sys2Proof.Machine

namespace Sys2Proof.Machine

/-! ### Every step keeps the invariant -/

/-- From a fetchable PC, PC after an instruction is at most 0x10FE (spec/10_state.md R26): the bound is
`JP V0, nnn` with `nnn = 0xFFF` and `V0 = 0xFF`. -/
theorem State.pcAfter_le {s : State} {i : Instr} (hpc : s.PC.toNat < 4094) (hf : s.fault? i = none)
    (hret : ∀ j : Fin 16, j.val < s.SP.val → s.stack[j].toNat < 4096) :
    (s.pcAfter i).toNat ≤ 0x10FE := by
  have hsp := s.SP.isLt
  have h2 : (s.PC + 2).toNat ≤ 0x10FE := by bv_omega
  have h4 : (s.PC + 4).toNat ≤ 0x10FE := by bv_omega
  cases i with
  | jp nnn | call nnn =>
    simp only [State.pcAfter]
    bv_omega
  | jpV0 nnn =>
    simp only [State.pcAfter]
    bv_omega
  | ret =>
    have h0 : s.SP.val ≠ 0 := fun h => by simp [State.fault?_ret_empty h] at hf
    have hlt : s.SP.val - 1 < 16 := by omega
    have := hret ⟨s.SP.val - 1, hlt⟩ (by simp only; omega)
    simp only [Fin.getElem_fin] at this
    simp only [State.pcAfter, Vector.getElem?_eq_getElem hlt, Option.getD_some]
    omega
  | seImm _ _ | sneImm _ _ | seReg _ _ | sneReg _ _ | skp _ | sknp _ =>
    simp only [State.pcAfter]
    split <;> assumption
  | _ => exact h2

/-- The return addresses stay inside the memory: CALL pushes `PC + 2`, RET pops (spec/41_flow.md R141,
R143), and no other instruction touches the stack. -/
theorem State.effect_returnAddrs {s : State} {i : Instr} (hpc : s.PC.toNat < 4094)
    (hret : ∀ j : Fin 16, j.val < s.SP.val → s.stack[j].toNat < 4096) :
    ∀ j : Fin 16, j.val < (s.effect i).SP.val → (s.effect i).stack[j].toNat < 4096 := by
  intro j hj
  cases i with
  | call nnn =>
    simp only [State.effect, State.writes, State.jump] at hj ⊢
    split
    · next h =>
      simp only [Fin.getElem_fin, Vector.getElem_set]
      split
      · bv_omega
      · exact hret j (by omega)
    · next h => exact hret j (by simp only [Config.stackDepth] at h; omega)
  | ret =>
    have hj' : j.val < s.SP.val - 1 := hj
    exact hret j (by omega)
  | _ =>
    rw [(s.effect_keepsAllBut _ .SP (by simp [writeParts]) : _ = s.SP)] at hj
    rw [(s.effect_keepsAllBut _ .stack (by simp [writeParts]) : _ = s.stack)]
    exact hret j hj

/-- The record a faulting instruction leaves says of the state what R220 and R226 ask. -/
theorem State.fault?_fits {s : State} {i : Instr} {c : Fault} {a : Word}
    (h : s.fault? i = some (c, a)) : HaltRecord.Fits ⟨c, s.PC, encode i, s.SP, a⟩ s := by
  refine ⟨rfl, rfl, ?_⟩
  cases i with
  | call _ | ret =>
    obtain ⟨hsp, hc⟩ := Option.ite_none_right_eq_some.mp h
    cases hc
    exact ⟨hsp, rfl⟩
  | drw _ _ _ | ldB _ | ldMemVx _ | ldVxMem _ =>
    obtain ⟨_, ha, hc⟩ := Option.map_eq_some_iff.mp h
    cases hc
    have := s.I.isLt
    simp only [State.dataFault?_addr ha, BitVec.toNat_ofNat]
    omega
  | skp x | sknp x | ldF x =>
    obtain ⟨hx, hc⟩ := Option.ite_none_right_eq_some.mp h
    cases hc
    have := (s.reg x).isLt
    simp only [byteOperand, BitVec.toNat_setWidth]
    omega
  | _ => cases h

/-- Entering a fault from mode Running keeps the invariant, if the record fits. -/
theorem Inv.raise {s : State} {c : Fault} {w a : Word} (h : Inv s) (hr : s.Running)
    (hfit : HaltRecord.Fits ⟨c, s.PC, w, s.SP, a⟩ s) : Inv (s.raise c w a) where
  memCanonical := h.memCanonical
  pcBound := h.pcBound
  returnAddrs := h.returnAddrs
  notWaitingHalted := .inr hr.2
  haltRecordFits := by
    rintro r hr
    cases hr
    exact hfit

/-- A tick touches nothing the invariant speaks of. -/
theorem Inv.tick {s : State} (h : Inv s) : Inv s.tick where
  memCanonical := by simpa using h.memCanonical
  pcBound := by simpa using h.pcBound
  returnAddrs := by simpa using h.returnAddrs
  notWaitingHalted := by simpa using h.notWaitingHalted
  haltRecordFits := by simpa [HaltRecord.Fits] using h.haltRecordFits

theorem Inv.tickUnlessHalted {s : State} (h : Inv s) : Inv s.tickUnlessHalted := by
  unfold State.tickUnlessHalted
  split
  · exact h
  · exact h.tick

/-- A poll writes a register and `wait` alone, and ends the wait if anything. -/
theorem Inv.poll {s : State} (h : Inv s) (r : RegIdx) : Inv (s.poll r) := by
  unfold State.poll
  split
  · exact ⟨h.memCanonical, h.pcBound, h.returnAddrs, .inr rfl, h.haltRecordFits⟩
  · exact h

/-- An instruction that raises no fault keeps the invariant. -/
theorem Inv.effect {s : State} {i : Instr} (h : Inv s) (hs : s.halt = none)
    (hpc : s.PC.toNat < 4094) (hf : s.fault? i = none) : Inv (s.effect i) where
  memCanonical := by
    rw [s.effect_mem]
    rcases s.stores_inside hf with h0 | hle
    · have hnil : s.storedBytes i = [] :=
        List.eq_nil_of_length_eq_zero ((s.storedBytes_length i).trans h0)
      rw [hnil]
      exact h.memCanonical
    · exact Memory.wf_writeRun h.memCanonical (by rwa [s.storedBytes_length])
  pcBound := State.pcAfter_le hpc hf h.returnAddrs
  returnAddrs := State.effect_returnAddrs hpc h.returnAddrs
  notWaitingHalted := .inl ((s.effect_halt i).trans hs)
  haltRecordFits := by simp [hs]

theorem Inv.exec {s t : State} {i : Instr} (h : Inv s) (hr : s.Running) (hpc : s.PC.toNat < 4094)
    (he : exec i s = .next t) : Inv t := by
  obtain ⟨c, a, hf, rfl⟩ | ⟨hf, rfl⟩ := exec_cases he
  · exact h.raise hr (State.fault?_fits hf)
  · exact h.effect hr.1 hpc hf

/-- Settles O54: each of the four things a step can do keeps the invariant. -/
theorem stepKeepsTheInvariant : Obligations.StepKeepsTheInvariant := by
  intro s t h hst
  obtain ⟨-, rfl⟩ | ⟨r, -, -, rfl⟩ | ⟨hr, hpc, rfl⟩ | ⟨u, ⟨hr, hpc, -⟩, hu, rfl⟩ := step_cases hst
  · exact h
  · exact (h.poll r).tick
  · exact h.raise hr ⟨rfl, rfl, hpc, rfl, rfl⟩
  · exact (h.exec hr hpc hu).tickUnlessHalted

/-! ### PC, write sets and VF -/

/-- Settles O16: an instruction without a fault has its effect, whose PC is that of R25; the other cycles
are the cases of `step_cases` that do not execute, or fault. -/
theorem pcUpdateOfEveryInstruction : Obligations.PcUpdateOfEveryInstruction := by
  refine ⟨fun i s t hs he => ⟨fun ht => ?_, fun ht => ?_⟩, fun s t hstop hst => ?_⟩
  · obtain ⟨-, rfl⟩ := exec_cases_of_safe he ht
    exact s.effect_PC i
  · obtain ⟨c, a, -, rfl⟩ | ⟨-, rfl⟩ := exec_cases he
    · rfl
    · exact absurd ((s.effect_halt i).trans hs) ht
  · obtain ⟨-, rfl⟩ | ⟨r, -, -, rfl⟩ | ⟨-, -, rfl⟩ | ⟨u, ⟨⟨hh, hw⟩, -, -⟩, hu, rfl⟩ := step_cases hst
    · rfl
    · exact (s.poll r).tick_PC.trans (s.poll_keeps r .PC (by decide))
    · rfl
    · have hu' : u.halt ≠ none := by simpa [hh, hw] using hstop
      rw [tickUnlessHalted_of_halted hu']
      obtain ⟨c, a, -, rfl⟩ | ⟨-, rfl⟩ := exec_cases hu
      · rfl
      · exact absurd ((s.effect_halt _).trans hh) hu'

/-- Settles O17, by the frame of the effect, its registers and its stores. -/
theorem writeSetsOfEveryInstruction : Obligations.WriteSetsOfEveryInstruction := by
  intro i s t he
  obtain ⟨c, a, -, rfl⟩ | ⟨-, rfl⟩ := exec_cases he
  · exact .inr ⟨_, rfl⟩
  · exact .inl ⟨s.effect_keepsAllBut i, fun r => State.effect_reg, s.effect_keepsBytesOutside i⟩

theorem flagByte_eq (f : Bool) : flagByte f = 0 ∨ flagByte f = 1 := by cases f <;> decide

/-- A flag writer leaves a flag in VF, whatever its destination (spec/43_alu.md R172). -/
theorem State.effect_flag {s : State} {i : Instr} (h : writesFlag i = true) :
    ∃ f, (s.effect i).reg 15 = flagByte f := by
  cases i with
  | addReg _ _ | sub _ _ | shr _ _ | subn _ _ | shl _ _ => exact ⟨_, s.reg_setResultFlag _ 15 _ _⟩
  | drw x y n => exact ⟨_, State.reg_setFlag _ 15 _⟩
  | _ => cases h

/-- Settles O32, by `State.effect_flag` and `State.effect_reg`. -/
theorem vfWrittenOnlyAsFlag : Obligations.VfWrittenOnlyAsFlag := by
  intro i s t _ he ht
  obtain ⟨-, rfl⟩ := exec_cases_of_safe he ht
  refine ⟨fun hflag => ?_, fun _ => State.effect_reg⟩
  obtain ⟨f, hf⟩ := State.effect_flag (s := s) hflag
  exact hf ▸ flagByte_eq f

end Sys2Proof.Machine

namespace Sys2Proof.Machine

/-! ### What instructions do not read -/

/-- The state with another random stream (spec/43_alu.md R175). -/
def State.withRandom (s : State) (rnd : List Byte) (drawn : Nat) : State :=
  { s with rnd := rnd, drawn := drawn }

/-- The state with another sound timer, dirty flag and audio trace (spec/10_state.md R33, R37, R40). -/
def State.withOutputs (s : State) (st : Byte) (d : Bool) (a : List AudioEvent) : State :=
  { s with ST := st, dirty := d, audio := a }

/-- Whether and how an instruction faults depends on V, I and SP alone. -/
theorem State.fault?_congr {s t : State} (hV : t.V = s.V) (hI : t.I = s.I) (hSP : t.SP = s.SP)
    (i : Instr) : t.fault? i = s.fault? i := by
  cases i <;> simp only [State.fault?, State.dataBoundsFault?, State.digitFault?,
    State.dataFault?_congr hI, State.reg_congr hV, hSP]

theorem State.effect_withRandom {i : Instr} (hi : ∀ x kk, i ≠ .rnd x kk) (s : State)
    (rnd : List Byte) (drawn : Nat) :
    (s.withRandom rnd drawn).effect i = (s.effect i).withRandom rnd drawn := by
  cases i with
  | rnd x kk => exact absurd rfl (hi x kk)
  | _ => rfl

/-- Settles O35: neither the fault nor the effect depends on the random stream. -/
theorem onlyRndReadsTheRandomStream : Obligations.OnlyRndReadsTheRandomStream := by
  intro i s t rnd drawn hi he
  show exec i (s.withRandom rnd drawn) = .next (t.withRandom rnd drawn)
  have hcongr : (s.withRandom rnd drawn).fault? i = s.fault? i := State.fault?_congr rfl rfl rfl i
  rw [exec_eq]
  obtain ⟨c, a, hf, rfl⟩ | ⟨hf, rfl⟩ := exec_cases he
  · rw [State.executed_of_some (hcongr.trans hf)]
    rfl
  · rw [State.executed_of_none (hcongr.trans hf), State.effect_withRandom hi]

/-- What an instruction does beside ST, dirty and audio is the same whatever they hold. -/
theorem State.effect_withOutputs (s : State) (i : Instr) (st : Byte) (d : Bool)
    (a : List AudioEvent) :
    ((s.withOutputs st d a).effect i).withOutputs (s.effect i).ST (s.effect i).dirty
      (s.effect i).audio = s.effect i := by
  cases i with
  | ldVxMem x =>
    have hload : (s.withOutputs st d a).loadRegs x = (s.loadRegs x).withOutputs st d a := rfl
    simp only [State.effect, State.writes, hload]
    generalize s.loadRegs x = u
    rfl
  | _ => rfl

/-- Settles O36: neither the fault nor the rest of the effect depends on ST, dirty or audio. -/
theorem noInstructionReadsSoundTimerDirtyOrAudio :
    Obligations.NoInstructionReadsSoundTimerDirtyOrAudio := by
  intro i s t st d a he
  have hcongr : (s.withOutputs st d a).fault? i = s.fault? i := State.fault?_congr rfl rfl rfl i
  refine ⟨_, exec_eq i (s.withOutputs st d a), ?_⟩
  obtain ⟨c, addr, hf, rfl⟩ | ⟨hf, rfl⟩ := exec_cases he
  · rw [State.executed_of_some (hcongr.trans hf)]
    rfl
  · rw [State.executed_of_none (hcongr.trans hf)]
    exact s.effect_withOutputs i st d a

/-! ### Waiting and the redraw flag -/

/-- Settles O50: a waiting cycle is a poll and a tick. -/
theorem waitingChangesOnlyTimersAndTarget : Obligations.WaitingChangesOnlyTimersAndTarget := by
  intro s t r hs hw hst
  rw [step_waiting hs hw] at hst
  cases hst
  refine ⟨(s.poll_keeps r).trans (keepsAllBut_tick _), fun x hx => ?_, fun hkey => ?_⟩
  · rw [State.reg_tick, s.reg_poll_of_ne (by simpa using hx)]
  · rw [State.poll_of_none (lowestKey_eq_none.mpr hkey)]
    exact ⟨s.reg_tick r, s.tick_wait.trans hw⟩

/-- No instruction clears the redraw flag (spec/10_state.md R37). -/
theorem State.effect_dirty {s : State} (h : s.dirty = true) (i : Instr) :
    (s.effect i).dirty = true := by
  cases i with
  | cls | drw _ _ _ => rfl
  | _ =>
    rw [(s.effect_keepsAllBut _ .dirty (by simp [writeParts]) : _ = s.dirty)]
    exact h

@[simp] theorem State.tickUnlessHalted_dirty (s : State) : s.tickUnlessHalted.dirty = s.dirty := by
  unfold State.tickUnlessHalted; split <;> simp

@[simp] theorem State.tickUnlessHalted_key (s : State) : s.tickUnlessHalted.key = s.key := by
  unfold State.tickUnlessHalted; split <;> simp

theorem exec_keeps_dirty_key {i : Instr} {s t : State} (h : exec i s = .next t) :
    (s.dirty = true → t.dirty = true) ∧ t.key = s.key := by
  obtain ⟨c, a, -, rfl⟩ | ⟨-, rfl⟩ := exec_cases h
  · exact ⟨id, rfl⟩
  · exact ⟨fun hd => State.effect_dirty hd i, s.effect_key i⟩

/-- No cycle clears the redraw flag or changes the key latch (spec/40_engine_cycle.md R132). -/
theorem step_keeps_dirty_key {s t : State} (h : step s = .next t) :
    (s.dirty = true → t.dirty = true) ∧ t.key = s.key := by
  obtain ⟨-, rfl⟩ | ⟨r, -, -, rfl⟩ | ⟨-, -, rfl⟩ | ⟨u, -, hu, rfl⟩ := step_cases h
  · exact ⟨id, rfl⟩
  · rw [State.tick_dirty, State.tick_key, s.poll_keeps r .dirty (by decide),
      s.poll_keeps r .key (by decide)]
    exact ⟨id, rfl⟩
  · exact ⟨id, rfl⟩
  · rw [State.tickUnlessHalted_dirty, State.tickUnlessHalted_key]
    exact exec_keeps_dirty_key hu

/-- A cycle that executes a known instruction. -/
theorem step_eq_of_atInstr {s t : State} {i : Instr} (h : s.AtInstr i) (hst : step s = .next t) :
    ∃ u, exec i s = .next u ∧ t = u.tickUnlessHalted := by
  have := step_atInstr h (exec_eq i s)
  rw [this] at hst
  cases hst
  exact ⟨_, exec_eq i s, rfl⟩

theorem State.applyHostOp_dirty {s : State} (h : s.dirty = true) {op : HostOp}
    (hack : op ≠ .ackRedraw) (hreset : op ≠ .reset) : (s.applyHostOp op).dirty = true := by
  cases op with
  | cycle b =>
    simp only [State.applyHostOp, State.cycleWith]
    split
    · next t ht => exact (step_keeps_dirty_key ht).1 h
    · exact h
    · exact h
  | press k => exact h
  | release k => exact h
  | load bytes =>
    simp only [State.applyHostOp, State.load]
    by_cases hlen : bytes.length ≤ Config.progMax
    · rw [if_pos hlen]; exact h
    · rw [if_neg hlen]; exact h
  | reset => exact absurd rfl hreset
  | ackRedraw => exact absurd rfl hack

/-- Settles O59, from what every cycle and every host operation keep. -/
theorem redrawFlagIsSticky : Obligations.RedrawFlagIsSticky := by
  refine ⟨fun s t hst => ⟨(step_keeps_dirty_key hst).1, (step_keeps_dirty_key hst).2,
      fun hat => ?_, fun x y n hat ht => ?_⟩,
    fun s op hack hreset hd => State.applyHostOp_dirty hd hack hreset,
    fun s => ⟨rfl, rfl, rfl, keepsAllBut_ackRedraw s, rfl⟩⟩
  · obtain ⟨u, hu, rfl⟩ := step_eq_of_atInstr hat hst
    cases hu
    exact State.tickUnlessHalted_dirty _
  · obtain ⟨u, hu, rfl⟩ := step_eq_of_atInstr hat hst
    rw [State.tickUnlessHalted_halt] at ht
    obtain ⟨-, rfl⟩ := exec_cases_of_safe hu ht
    exact State.tickUnlessHalted_dirty _

/-! ### CALL and RET -/

theorem exec_call_full {s : State} (h : s.SP.val = 16) (nnn : Addr12) :
    exec (.call nnn) s = .next (s.raise .stackOverflow (encode (.call nnn)) 0) := by
  rw [exec_eq, State.executed_of_some (State.fault?_call_full h nnn)]

theorem exec_ret_empty {s : State} (h : s.SP.val = 0) :
    exec .ret s = .next (s.raise .stackUnderflow (encode .ret) 0) := by
  rw [exec_eq, State.executed_of_some (State.fault?_ret_empty h)]

/-- CALL is undone by RET, but for PC (spec/10_state.md R29). -/
theorem exec_ret_of_call {s : State} (h : s.SP.val < 16) (nnn : Addr12) :
    ∃ t u, exec (.call nnn) s = .next t ∧ exec .ret t = .next u ∧ u.PC = s.PC + 2 ∧ u.SP = s.SP := by
  have hSP : (s.effect (.call nnn)).SP.val = s.SP.val + 1 :=
    show min (s.SP.val + 1) 16 = _ by omega
  have hne : (s.effect (.call nnn)).SP.val ≠ 0 := by omega
  refine ⟨s.effect (.call nnn), (s.effect (.call nnn)).effect .ret, ?_, ?_, ?_, ?_⟩
  · rw [exec_eq, State.executed_of_none (State.fault?_call_of_lt h nnn)]
  · rw [exec_eq, State.executed_of_none (State.fault?_ret_of_ne hne)]
  · have hstack : (s.effect (.call nnn)).stack = s.stack.set s.SP.val (s.PC + 2) := dif_pos h
    simp [State.pcAfter, hSP, hstack, h]
  · have hpop : ((s.effect (.call nnn)).effect .ret).SP.val =
        (s.effect (.call nnn)).SP.val - 1 := rfl
    exact Fin.ext (by omega)

/-- Settles O18, from CALL on a full stack, RET on an empty one, and the round trip. -/
theorem callReturnDiscipline : Obligations.CallReturnDiscipline :=
  ⟨fun s => Nat.le_of_lt_succ s.SP.isLt,
    fun nnn _ h => ⟨_, _, exec_call_full h nnn, rfl, rfl, rfl, rfl, rfl⟩,
    fun _ h => ⟨_, _, exec_ret_empty h, rfl, rfl, rfl, rfl, rfl⟩,
    fun nnn _ h => exec_ret_of_call h nnn⟩

/-! ### Reset -/

/-- The reset values, with a given font, random stream and audio trace: the common form of
`State.reset`, `State.construct` and `State.hostReset`. -/
def State.resetWith (font : Vector Byte Config.fontSize) (rnd : List Byte) (drawn : Nat)
    (audio : List AudioEvent) : State :=
  { State.reset with
    mem := { font := font, cells := [] }, rnd := rnd, drawn := drawn, audio := audio }

theorem State.resetWith_of_hostReset_or_reset {s t : State} (h : t = s.hostReset ∨ t = State.reset) :
    ∃ font rnd drawn audio, t = State.resetWith font rnd drawn audio := by
  rcases h with rfl | rfl
  · exact ⟨s.mem.font, s.rnd, s.drawn, s.audio, rfl⟩
  · exact ⟨defaultFont, [], 0, [], rfl⟩

theorem inv_resetWith (font : Vector Byte Config.fontSize) (rnd : List Byte) (drawn : Nat)
    (audio : List AudioEvent) : Inv (State.resetWith font rnd drawn audio) where
  memCanonical := Memory.wf_reset font
  pcBound := (by decide : State.reset.PC.toNat ≤ 0x10FE)
  returnAddrs := fun _ hj => absurd hj (Nat.not_lt_zero _)
  notWaitingHalted := .inl rfl
  haltRecordFits := fun _ hr => absurd hr (Option.some_ne_none _).symm

/-- Settles O53: both are reset values. -/
theorem resetMeetsTheInvariant : Obligations.ResetMeetsTheInvariant :=
  ⟨inv_resetWith defaultFont [] 0 [], fun font rnd => inv_resetWith font rnd 0 []⟩

/-- Where no cell is listed, memory reads as the font below 0x050 and 0 above (spec/10_state.md R44). -/
theorem Memory.read_of_cells_eq_nil {m : Memory} (h : m.cells = []) (a : Nat) :
    m.read a = m.unlisted a := by
  simp [Memory.read, h, lookupCell]

theorem Memory.unlisted_of_lt {m : Memory} {a : Nat} (h : a < 80) : m.unlisted a = m.font[a] :=
  dif_pos h

theorem Memory.unlisted_of_ge {m : Memory} {a : Nat} (h : 80 ≤ a) : m.unlisted a = 0 :=
  dif_neg (by simpa using h)

/-- Settles O56, over the common form of both reset states. -/
theorem resetRestoresEveryValue : Obligations.ResetRestoresEveryValue := by
  intro s t ht
  have hkept : t = s.hostReset → t.mem.font = s.mem.font ∧ t.rnd = s.rnd ∧ t.drawn = s.drawn ∧
      t.audio = s.audio := by rintro rfl; exact ⟨rfl, rfl, rfl, rfl⟩
  obtain ⟨font, rnd, drawn, audio, rfl⟩ := State.resetWith_of_hostReset_or_reset ht
  have hmem : (State.resetWith font rnd drawn audio).mem.cells = [] := rfl
  refine ⟨fun a h => ?_, fun a h => ?_, fun r => ?_, rfl, rfl, fun j => ?_, rfl, rfl, rfl,
    fun row col => ?_, rfl, fun k => ?_, rfl, rfl, hkept⟩
  · exact (Memory.read_of_cells_eq_nil hmem a).trans (Memory.unlisted_of_lt h)
  · exact (Memory.read_of_cells_eq_nil hmem a).trans (Memory.unlisted_of_ge h)
  · simp [State.reg, State.resetWith, State.reset]
  · simp [State.resetWith, State.reset]
  · simp [State.pixel, State.resetWith, State.reset]
  · simp [State.resetWith, State.reset]

end Sys2Proof.Machine

namespace Sys2Proof.Machine

/-! ### Fetch and the canonical form of memory -/

/-- Big-endian order: the high byte counts 256 times. -/
theorem append_eq_ofNat (hi lo : Byte) :
    hi ++ lo = BitVec.ofNat 16 (256 * hi.toNat + lo.toNat) := by
  have hlo := lo.isLt
  have happ : (hi ++ lo).toNat = hi.toNat * 2 ^ 8 + lo.toNat := by
    rw [BitVec.toNat_append, ← Nat.shiftLeft_add_eq_or_of_lt hlo, Nat.shiftLeft_eq]
  apply BitVec.eq_of_toNat_eq
  rw [happ, BitVec.toNat_ofNat]
  omega

/-- Settles O5, on both sides of the bound of R66. -/
theorem fetchIsBigEndianBelow4094 : Obligations.FetchIsBigEndianBelow4094 := by
  intro s
  split
  · next h => rw [fetch?_eq_some h, State.wordAtPC, append_eq_ofNat]
  · next h => exact fetch?_eq_none (by omega)

/-- The dump stores the registers 0 to x at ascending addresses from I (spec/44_index_memory.md R185). -/
theorem State.byteAt_effect_ldMemVx (s : State) {j x : RegIdx} (h : j ≤ x) :
    (s.effect (.ldMemVx x)).byteAt (s.I.toNat + j.val) = s.reg j := by
  have hj : j.val ≤ x.val := h
  calc (s.effect (.ldMemVx x)).byteAt (s.I.toNat + j.val)
      = (s.storeRun s.I.toNat (s.regsUpTo x)).byteAt (s.I.toNat + j.val) :=
        State.byteAt_congr (s := s.storeRun _ _) (s.effect_mem (.ldMemVx x)) _
    _ = s.reg j := by simp [State.byteAt_storeRun, State.regsUpTo_getElem?, hj]

/-- Settles O43: the dump has left V0 and V1 at I and I + 1, where the fetch reads its two bytes. -/
theorem storedBytesAreFetched : Obligations.StoredBytesAreFetched := by
  intro x s hx hmem hI
  have hfault : s.fault? (.ldMemVx x) = none :=
    Option.map_eq_none_iff.mpr (State.dataFault?_eq_none.mpr (.inr (by omega)))
  refine ⟨s.effect (.ldMemVx x), by rw [exec_eq, State.executed_of_none hfault], ?_⟩
  have h0 : (s.effect (.ldMemVx x)).byteAt s.I.toNat = s.reg 0 :=
    s.byteAt_effect_ldMemVx (Fin.zero_le x)
  have h1 : (s.effect (.ldMemVx x)).byteAt (s.I.toNat + 1) = s.reg 1 :=
    s.byteAt_effect_ldMemVx (j := 1) hx
  rw [← h0, ← h1]
  exact fetch?_eq_some (s := { s.effect (.ldMemVx x) with PC := s.I }) hI

theorem mem_of_lookupCell {a : Nat} {b : Byte} {cells : List Host.Cell}
    (h : lookupCell cells a = some b) : (a, b) ∈ cells := by
  induction cells with
  | nil => cases h
  | cons c rest ih =>
    simp only [lookupCell] at h
    split at h
    · next hk => cases hk; cases h; exact List.mem_cons_self
    · exact List.mem_cons_of_mem _ (ih h)

/-- In a list of strictly rising addresses a lookup finds every cell: none is shadowed. -/
theorem lookupCell_of_mem {a : Nat} {b : Byte} {cells : List Host.Cell}
    (hs : cells.Pairwise (fun c d => c.1 < d.1)) (h : (a, b) ∈ cells) :
    lookupCell cells a = some b := by
  induction cells with
  | nil => cases h
  | cons c rest ih =>
    obtain ⟨hc, hrest⟩ := List.pairwise_cons.mp hs
    rcases List.mem_cons.mp h with rfl | h
    · exact if_pos rfl
    · exact (if_neg (hc _ h).ne).trans (ih hrest h)

/-- The cells of a canonical memory are the bytes that read otherwise than an unlisted address would. -/
theorem Memory.mem_cells_iff {m : Memory} (h : m.wf) (a : Nat) (b : Byte) :
    (a, b) ∈ m.cells ↔ m.read a = b ∧ b ≠ m.unlisted a := by
  obtain ⟨hs, hc⟩ := h
  constructor
  · intro hmem
    exact ⟨by rw [Memory.read, lookupCell_of_mem hs hmem, Option.getD_some], (hc _ hmem).2⟩
  · rintro ⟨hread, hne⟩
    unfold Memory.read at hread
    cases hl : lookupCell m.cells a with
    | none => rw [hl] at hread; exact absurd hread.symm hne
    | some c => rw [hl] at hread; cases hread; exact mem_of_lookupCell hl

theorem Memory.unlisted_congr {m n : Memory} (h : m.font = n.font) (a : Nat) :
    m.unlisted a = n.unlisted a := by simp only [Memory.unlisted, h]

/-- Lists of strictly rising addresses with the same cells are the same list. -/
theorem cells_eq_of_mem_iff {l k : List Host.Cell} (hl : l.Pairwise (fun c d => c.1 < d.1))
    (hk : k.Pairwise (fun c d => c.1 < d.1)) (h : ∀ c, c ∈ l ↔ c ∈ k) : l = k :=
  haveI : Std.Irrefl fun c d : Host.Cell => c.1 < d.1 := ⟨fun c => lt_irrefl c.1⟩
  haveI : Std.Antisymm fun c d : Host.Cell => c.1 < d.1 := ⟨fun _ _ h h' => absurd h h'.asymm⟩
  hl.eq_of_mem_iff hk h

/-- Settles O44: the reads say which cells are listed, and rising addresses say in which order. -/
theorem canonicalMemoriesAreDeterminedByReads :
    Obligations.CanonicalMemoriesAreDeterminedByReads := by
  intro m n hm hn hfont hread
  have hcells : m.cells = n.cells := cells_eq_of_mem_iff hm.1 hn.1 fun c => by
    rw [Memory.mem_cells_iff hm, Memory.mem_cells_iff hn, hread, Memory.unlisted_congr hfont]
  cases m
  cases n
  cases hfont
  cases hcells
  rfl

end Sys2Proof.Machine

namespace Sys2Proof.Laws

/-! ### UNRECOGNIZED words (spec/30_encoding.md R97) -/

/-- `isUnrecognizedWord` as the arithmetic of R97's class lists. -/
theorem isUnrecognizedWord_iff (w : Word) : isUnrecognizedWord w = true ↔
    ((w.toNat / 4096 = 5 ∨ w.toNat / 4096 = 9) ∧ w.toNat % 16 ≠ 0) ∨
    (w.toNat / 4096 = 8 ∧ w.toNat % 16 ∈ [8, 9, 10, 11, 12, 13, 15]) ∨
    (w.toNat / 4096 = 14 ∧ w.toNat % 256 ∉ [0x9E, 0xA1]) ∨
    (w.toNat / 4096 = 15 ∧
      w.toNat % 256 ∉ [0x07, 0x0A, 0x15, 0x18, 0x1E, 0x29, 0x33, 0x55, 0x65]) := by
  have hlt : w.toNat / 4096 < 16 := by have := w.isLt; omega
  have hmajor : (w.extractLsb' 12 4).toNat = w.toNat / 4096 := by
    rw [BitVec.extractLsb'_toNat, Nat.shiftRight_eq_div_pow]
    exact Nat.mod_eq_of_lt hlt
  have hcode : (w.extractLsb' 0 4).toNat = w.toNat % 16 := fieldN_val w
  have hkk : (w.extractLsb' 0 8).toNat = w.toNat % 256 := fieldKK_toNat w
  simp only [isUnrecognizedWord, unusedAluCodes, keyCodes, miscCodes, hmajor]
  generalize w.toNat / 4096 = m at hlt
  interval_cases m <;> simp [← BitVec.toNat_inj, hcode, hkk, -BitVec.extractLsb'_toNat]

theorem and_F000_eq_iff {w p : Word} : w &&& 0xF000 = p ↔
    w.toNat / 4096 = p.toNat / 4096 ∧ p.toNat % 4096 = 0 := by
  rw [and_F000_eq]
  omega

theorem and_F00F_eq_iff {w p : Word} : w &&& 0xF00F = p ↔
    w.toNat / 4096 = p.toNat / 4096 ∧ w.toNat % 16 = p.toNat % 4096 := by
  rw [and_F00F_eq]
  omega

theorem and_F0FF_eq_iff {w p : Word} : w &&& 0xF0FF = p ↔
    w.toNat / 4096 = p.toNat / 4096 ∧ w.toNat % 256 = p.toNat % 4096 := by
  rw [and_F0FF_eq]
  omega

/-- The UNRECOGNIZED words are those no row takes, by major opcode: one row takes all its
words, or the rows' function codes are those R97 leaves out. -/
theorem isUnrecognizedWord_iff_noRow (w : Word) :
    isUnrecognizedWord w = true ↔ ∀ row ∈ laterRows, w &&& row.mask ≠ row.pattern := by
  have hlt : w.toNat / 4096 < 16 := by have := w.isLt; omega
  have hn : w.toNat % 16 < 16 := Nat.mod_lt _ (by decide)
  simp only [isUnrecognizedWord_iff, laterRows, opcodeRows, opcodeRowsLow, opcodeRowsAlu,
    opcodeRowsMid, opcodeRowsHigh, OpcodeRow.xy, OpcodeRow.xkk, OpcodeRow.nnn, OpcodeRow.x,
    List.cons_append, List.nil_append, List.drop_succ_cons, List.drop_zero, List.forall_mem_cons,
    ne_eq, and_F000_eq_iff, and_F00F_eq_iff, and_F0FF_eq_iff]
  generalize w.toNat / 4096 = m at hlt
  generalize w.toNat % 16 = n at hn
  interval_cases m <;> simp
  -- Left is major opcode 8: its unused codes are those other than 0 to 7 and E.
  omega

theorem decode_of_isUnrecognizedWord {w : Word} (h : isUnrecognizedWord w = true) :
    decode w = .unrecognized w := by
  have hno := (isUnrecognizedWord_iff_noRow w).mp h
  rcases decode_cases w with ⟨rfl, -⟩ | ⟨rfl, -⟩ | ⟨row, hmem, hrow, -⟩ | hd
  · exact absurd h (by decide)
  · exact absurd h (by decide)
  · exact absurd hrow (hno row hmem)
  · exact hd

/-! ### Decoding what was encoded (spec/30_encoding.md R94) -/

theorem build_nnn (p : Word) (build : Addr12 → Instr) (m : Nibble) (nnn : Addr12) :
    (OpcodeRow.nnn p build).build (wordNNN m nnn) = build nnn :=
  congrArg build (fieldNNN_wordNNN m nnn)

theorem build_xkk (p : Word) (build : RegIdx → Byte → Instr) (m : Nibble) (x : RegIdx)
    (kk : Byte) : (OpcodeRow.xkk p build).build (wordXKK m x kk) = build x kk :=
  congrArg₂ build (fieldX_wordXKK m x kk) (fieldKK_wordXKK m x kk)

theorem build_x (p : Word) (build : RegIdx → Instr) (m : Nibble) (x : RegIdx) (kk : Byte) :
    (OpcodeRow.x p build).build (wordXKK m x kk) = build x := congrArg build (fieldX_wordXKK m x kk)

theorem build_xy (p : Word) (build : RegIdx → RegIdx → Instr) (m : Nibble) (x y : RegIdx)
    (n : Nibble) : (OpcodeRow.xy p build).build (wordXYN m x y n) = build x y :=
  congrArg₂ build (fieldX_wordXYN m x y n) (fieldY_wordXYN m x y n)

/-- Of the words of CLS and RET a later row makes only the ill-formed SYS terms. -/
theorem laterRows_build_cls_ret : ∀ row ∈ laterRows,
    (0x00E0 &&& row.mask = row.pattern → (row.build 0x00E0).wf = false) ∧
      (0x00EE &&& row.mask = row.pattern → (row.build 0x00EE).wf = false) := by decide

/-- A well-formed instruction that row `k` of `laterRows` builds from its word is decoded. -/
theorem decode_encode_at {i : Instr} {row : OpcodeRow} (k : Nat) (hrow : laterRows[k]? = some row)
    (hfit : encode i &&& row.mask = row.pattern) (hbuild : row.build (encode i) = i)
    (hwf : i.wf = true) : decode (encode i) = i := by
  have hmem := List.mem_of_getElem? hrow
  have hne {v : Word} (hv : v &&& row.mask = row.pattern → (row.build v).wf = false) :
      encode i ≠ v := by
    rintro rfl
    exact absurd hwf (by simpa [hbuild] using hv hfit)
  obtain ⟨hcls, hret⟩ := laterRows_build_cls_ret row hmem
  rw [decode_of_row hmem (hne hcls) (hne hret) hfit, hbuild]

/-- R94's round trip on the well-formed terms, each by the number of its row after CLS and RET. -/
theorem decode_encode {i : Instr} (h : i.wf = true) : decode (encode i) = i := by
  cases i with
  | cls => decide
  | ret => decide
  | sys nnn => exact decode_encode_at 0 rfl (EncodeMatchesRow.sys nnn) (build_nnn ..) h
  | jp nnn => exact decode_encode_at 1 rfl (EncodeMatchesRow.jp nnn) (build_nnn ..) h
  | call nnn => exact decode_encode_at 2 rfl (EncodeMatchesRow.call nnn) (build_nnn ..) h
  | seImm x kk => exact decode_encode_at 3 rfl (EncodeMatchesRow.seImm x kk) (build_xkk ..) h
  | sneImm x kk => exact decode_encode_at 4 rfl (EncodeMatchesRow.sneImm x kk) (build_xkk ..) h
  | seReg x y => exact decode_encode_at 5 rfl (EncodeMatchesRow.seReg x y) (build_xy ..) h
  | ldImm x kk => exact decode_encode_at 6 rfl (EncodeMatchesRow.ldImm x kk) (build_xkk ..) h
  | addImm x kk => exact decode_encode_at 7 rfl (EncodeMatchesRow.addImm x kk) (build_xkk ..) h
  | ldReg x y => exact decode_encode_at 8 rfl (EncodeMatchesRow.ldReg x y) (build_xy ..) h
  | or x y => exact decode_encode_at 9 rfl (EncodeMatchesRow.or x y) (build_xy ..) h
  | and x y => exact decode_encode_at 10 rfl (EncodeMatchesRow.and x y) (build_xy ..) h
  | xor x y => exact decode_encode_at 11 rfl (EncodeMatchesRow.xor x y) (build_xy ..) h
  | addReg x y => exact decode_encode_at 12 rfl (EncodeMatchesRow.addReg x y) (build_xy ..) h
  | sub x y => exact decode_encode_at 13 rfl (EncodeMatchesRow.sub x y) (build_xy ..) h
  | shr x y => exact decode_encode_at 14 rfl (EncodeMatchesRow.shr x y) (build_xy ..) h
  | subn x y => exact decode_encode_at 15 rfl (EncodeMatchesRow.subn x y) (build_xy ..) h
  | shl x y => exact decode_encode_at 16 rfl (EncodeMatchesRow.shl x y) (build_xy ..) h
  | sneReg x y => exact decode_encode_at 17 rfl (EncodeMatchesRow.sneReg x y) (build_xy ..) h
  | ldI nnn => exact decode_encode_at 18 rfl (EncodeMatchesRow.ldI nnn) (build_nnn ..) h
  | jpV0 nnn => exact decode_encode_at 19 rfl (EncodeMatchesRow.jpV0 nnn) (build_nnn ..) h
  | rnd x kk => exact decode_encode_at 20 rfl (EncodeMatchesRow.rnd x kk) (build_xkk ..) h
  | drw x y n =>
    have hn : fieldN (encode (.drw x y n)) = n := by
      rw [encode, fieldN_wordXYN]
      exact Fin.ext (Nat.mod_eq_of_lt n.isLt)
    refine decode_encode_at 21 rfl (EncodeMatchesRow.drw x y n) ?_ h
    show Instr.drw (fieldX _) (fieldY _) (fieldN _) = _
    rw [hn, encode, fieldX_wordXYN, fieldY_wordXYN]
  | skp x => exact decode_encode_at 22 rfl (EncodeMatchesRow.skp x) (build_x ..) h
  | sknp x => exact decode_encode_at 23 rfl (EncodeMatchesRow.sknp x) (build_x ..) h
  | ldVxDt x => exact decode_encode_at 24 rfl (EncodeMatchesRow.ldVxDt x) (build_x ..) h
  | ldVxK x => exact decode_encode_at 25 rfl (EncodeMatchesRow.ldVxK x) (build_x ..) h
  | ldDtVx x => exact decode_encode_at 26 rfl (EncodeMatchesRow.ldDtVx x) (build_x ..) h
  | ldStVx x => exact decode_encode_at 27 rfl (EncodeMatchesRow.ldStVx x) (build_x ..) h
  | addI x => exact decode_encode_at 28 rfl (EncodeMatchesRow.addI x) (build_x ..) h
  | ldF x => exact decode_encode_at 29 rfl (EncodeMatchesRow.ldF x) (build_x ..) h
  | ldB x => exact decode_encode_at 30 rfl (EncodeMatchesRow.ldB x) (build_x ..) h
  | ldMemVx x => exact decode_encode_at 31 rfl (EncodeMatchesRow.ldMemVx x) (build_x ..) h
  | ldVxMem x => exact decode_encode_at 32 rfl (EncodeMatchesRow.ldVxMem x) (build_x ..) h
  | unrecognized w => exact decode_of_isUnrecognizedWord h

/-! ### Encoding what was decoded (spec/30_encoding.md R94, R95) -/

/-- From every word the row takes it builds an instruction that encodes to the word. -/
def RowInverts (row : OpcodeRow) : Prop :=
  ∀ w : Word, w &&& row.mask = row.pattern → encode (row.build w) = w

theorem RowInverts.nnn {p : Word} {m : Nibble} {build : Addr12 → Instr}
    (h : ∀ nnn, encode (build nnn) = wordNNN m nnn) (hm : p.toNat / 4096 = m.toNat) :
    RowInverts (.nnn p build) := by
  intro w hw
  obtain ⟨hmajor, -⟩ := and_F000_eq_iff (p := p).mp hw
  apply BitVec.eq_of_toNat_eq
  rw [OpcodeRow.nnn, h, wordNNN_toNat, fieldNNN_toNat, ← hm, ← hmajor]
  omega

theorem RowInverts.xkk {p : Word} {m : Nibble} {build : RegIdx → Byte → Instr}
    (h : ∀ x kk, encode (build x kk) = wordXKK m x kk) (hm : p.toNat / 4096 = m.toNat) :
    RowInverts (.xkk p build) := by
  intro w hw
  obtain ⟨hmajor, -⟩ := and_F000_eq_iff (p := p).mp hw
  apply BitVec.eq_of_toNat_eq
  rw [OpcodeRow.xkk, h, wordXKK_toNat, fieldX_val, fieldKK_toNat, ← hm, ← hmajor]
  omega

theorem RowInverts.x {p : Word} {m : Nibble} {kk : Byte} {build : RegIdx → Instr}
    (h : ∀ x, encode (build x) = wordXKK m x kk) (hm : p.toNat / 4096 = m.toNat)
    (hkk : p.toNat % 4096 = kk.toNat) : RowInverts (.x p build) := by
  intro w hw
  obtain ⟨hmajor, hcode⟩ := and_F0FF_eq_iff (p := p).mp hw
  apply BitVec.eq_of_toNat_eq
  rw [OpcodeRow.x, h, wordXKK_toNat, fieldX_val, ← hm, ← hkk, ← hmajor, ← hcode]
  omega

theorem RowInverts.xy {p : Word} {m n : Nibble} {build : RegIdx → RegIdx → Instr}
    (h : ∀ x y, encode (build x y) = wordXYN m x y n) (hm : p.toNat / 4096 = m.toNat)
    (hn : p.toNat % 4096 = n.toNat) : RowInverts (.xy p build) := by
  intro w hw
  obtain ⟨hmajor, hcode⟩ := and_F00F_eq_iff (p := p).mp hw
  apply BitVec.eq_of_toNat_eq
  rw [OpcodeRow.xy, h, wordXYN_toNat, fieldX_val, fieldY_val, ← hm, ← hn, ← hmajor, ← hcode]
  omega

theorem RowInverts.drw :
    RowInverts ⟨0xF000, 0xD000, fun w => .drw (fieldX w) (fieldY w) (fieldN w)⟩ := by
  intro w hw
  have hmajor : w.toNat / 4096 = (0xD : Nibble).toNat := (and_F000_eq_iff.mp hw).1
  apply BitVec.eq_of_toNat_eq
  rw [encode, wordXYN_toNat, fieldX_val, fieldY_val, fieldN_val, ← hmajor]
  simp only [BitVec.toNat_ofNat]
  omega

theorem laterRows_invert : ∀ row ∈ laterRows, RowInverts row := by
  simp only [laterRows, opcodeRows, opcodeRowsLow, opcodeRowsAlu, opcodeRowsMid, opcodeRowsHigh,
    List.cons_append, List.nil_append, List.drop_succ_cons, List.drop_zero, List.forall_mem_cons]
  exact ⟨
    .nnn (fun _ => rfl) rfl, .nnn (fun _ => rfl) rfl, .nnn (fun _ => rfl) rfl,
    .xkk (fun _ _ => rfl) rfl, .xkk (fun _ _ => rfl) rfl, .xy (fun _ _ => rfl) rfl rfl,
    .xkk (fun _ _ => rfl) rfl, .xkk (fun _ _ => rfl) rfl,
    .xy (fun _ _ => rfl) rfl rfl, .xy (fun _ _ => rfl) rfl rfl, .xy (fun _ _ => rfl) rfl rfl,
    .xy (fun _ _ => rfl) rfl rfl, .xy (fun _ _ => rfl) rfl rfl, .xy (fun _ _ => rfl) rfl rfl,
    .xy (fun _ _ => rfl) rfl rfl, .xy (fun _ _ => rfl) rfl rfl, .xy (fun _ _ => rfl) rfl rfl,
    .xy (fun _ _ => rfl) rfl rfl, .nnn (fun _ => rfl) rfl, .nnn (fun _ => rfl) rfl,
    .xkk (fun _ _ => rfl) rfl, .drw,
    .x (fun _ => rfl) rfl rfl, .x (fun _ => rfl) rfl rfl, .x (fun _ => rfl) rfl rfl,
    .x (fun _ => rfl) rfl rfl, .x (fun _ => rfl) rfl rfl, .x (fun _ => rfl) rfl rfl,
    .x (fun _ => rfl) rfl rfl, .x (fun _ => rfl) rfl rfl, .x (fun _ => rfl) rfl rfl,
    .x (fun _ => rfl) rfl rfl, .x (fun _ => rfl) rfl rfl, List.forall_mem_nil _⟩

/-- A later row builds a well-formed instruction, or SYS with the operand of CLS or of RET. -/
theorem laterRows_wf (w : Word) : ∀ row ∈ laterRows, (row.build w).wf = true ∨
    row.build w = .sys 0x0E0 ∨ row.build w = .sys 0x0EE := by
  have hsys : (fieldNNN w ≠ 0x0E0 ∧ fieldNNN w ≠ 0x0EE) ∨ fieldNNN w = 0x0E0 ∨
      fieldNNN w = 0x0EE := by tauto
  simpa [laterRows, opcodeRows, opcodeRowsLow, opcodeRowsAlu, opcodeRowsMid, opcodeRowsHigh,
    OpcodeRow.nnn, OpcodeRow.xkk, OpcodeRow.x, OpcodeRow.xy, Instr.wf] using hsys

/-- A word of no UNRECOGNIZED class fits a row after CLS and RET: those two words fit SYS. -/
theorem exists_laterRow {w : Word} (h : isUnrecognizedWord w = false) :
    ∃ row ∈ laterRows, w &&& row.mask = row.pattern := by
  by_contra hno
  push Not at hno
  simp [(isUnrecognizedWord_iff_noRow w).mpr hno] at h

theorem decode_wf_and_encode_decode (w : Word) : (decode w).wf = true ∧ encode (decode w) = w := by
  cases hu : isUnrecognizedWord w with
  | true =>
    rw [decode_of_isUnrecognizedWord hu]
    exact ⟨hu, rfl⟩
  | false =>
    by_cases hcls : w = 0x00E0
    · subst hcls; decide
    by_cases hret : w = 0x00EE
    · subst hret; decide
    obtain ⟨row, hmem, hfit⟩ := exists_laterRow hu
    have henc := laterRows_invert row hmem w hfit
    rw [decode_of_row hmem hcls hret hfit]
    refine ⟨?_, henc⟩
    rcases laterRows_wf w row hmem with hwf | hsys | hsys
    · exact hwf
    · rw [hsys] at henc; exact absurd henc.symm hcls
    · rw [hsys] at henc; exact absurd henc.symm hret

theorem highByte_append_lowByte (w : Word) : highByte w ++ lowByte w = w := by
  have hw := w.isLt
  apply BitVec.eq_of_toNat_eq
  simp only [Machine.append_eq_ofNat, highByte, lowByte, BitVec.extractLsb'_toNat,
    Nat.shiftRight_eq_div_pow, BitVec.toNat_ofNat]
  omega

theorem decodeBytes_wordBytes (w : Word) (rest : List Byte) :
    decodeBytes (wordBytes w ++ rest) = .ok (decode w, rest) := by
  show Except.ok (decode (highByte w ++ lowByte w), rest) = _
  rw [highByte_append_lowByte]

/-- Settles O1: every instruction's word fits its row, and the row reads its operands back. -/
theorem decodeInvertsEncode : Obligations.DecodeInvertsEncode := by
  intro i rest hwf
  refine ⟨decode_encode hwf, ?_⟩
  rw [encodeBytes, decodeBytes_wordBytes, decode_encode hwf]

/-- Settles O2: the row that takes a word keeps all its bits, and UNRECOGNIZED keeps the word. -/
theorem encodeInvertsDecode : Obligations.EncodeInvertsDecode := by
  intro w rest
  obtain ⟨hwf, henc⟩ := decode_wf_and_encode_decode w
  exact ⟨hwf, henc, decodeBytes_wordBytes w rest⟩

/-- By the two round trips a word decodes to `i` exactly if `i` is well formed and has that word. -/
theorem decode_eq_iff {w : Word} {i : Instr} : decode w = i ↔ i.wf = true ∧ encode i = w := by
  constructor
  · rintro rfl
    exact decode_wf_and_encode_decode w
  · rintro ⟨hwf, rfl⟩
    exact decode_encode hwf

theorem exists_decode_eq_unrecognized_iff (w : Word) :
    (∃ v, decode w = .unrecognized v) ↔ isUnrecognizedWord w = true := by
  simp only [decode_eq_iff, encode, Instr.wf, exists_eq_right]

theorem exists_decode_eq_sys_iff (w : Word) : (∃ nnn, decode w = .sys nnn) ↔
    w.toNat < 4096 ∧ w.toNat ≠ 0x0E0 ∧ w.toNat ≠ 0x0EE := by
  have hval (nnn : Addr12) : (wordNNN 0x0 nnn).toNat = nnn.toNat := by simp [wordNNN_toNat]
  simp only [decode_eq_iff, encode, Instr.wf, Bool.and_eq_true, bne_iff_ne]
  constructor
  · rintro ⟨nnn, ⟨hcls, hret⟩, rfl⟩
    rw [hval]
    exact ⟨nnn.isLt, BitVec.toNat_ne.mp hcls, BitVec.toNat_ne.mp hret⟩
  · rintro ⟨hlt, hcls, hret⟩
    have hnnn : (fieldNNN w).toNat = w.toNat := (fieldNNN_toNat w).trans (Nat.mod_eq_of_lt hlt)
    refine ⟨fieldNNN w, ⟨?_, ?_⟩, BitVec.eq_of_toNat_eq ((hval _).trans hnnn)⟩
    · exact BitVec.toNat_ne.mpr (hnnn ▸ hcls)
    · exact BitVec.toNat_ne.mpr (hnnn ▸ hret)

/-- Settles O3: the round trips make each class the words of its well-formed terms. -/
theorem unrecognizedAndSysClasses : Obligations.UnrecognizedAndSysClasses := fun w =>
  ⟨(exists_decode_eq_unrecognized_iff w).trans (isUnrecognizedWord_iff w),
    exists_decode_eq_sys_iff w⟩

/-- Settles O4, by running the decoder. -/
theorem sampleWordsDecode : Obligations.SampleWordsDecode := by
  unfold Obligations.SampleWordsDecode
  decide

end Sys2Proof.Laws

namespace Sys2Proof.Machine

/-! ### A cycle that executes, and the fault that ends one -/

/-- A cycle whose instruction raises no fault: its effect, then the tick (spec/40_engine_cycle.md R122). -/
theorem step_of_fault?_none {s : State} {i : Instr} (h : s.AtInstr i) (hf : s.fault? i = none) :
    step s = .next (s.effect i).tick := by
  have hsafe : (s.effect i).halt = none := (s.effect_halt i).trans h.1.1
  rw [step_atInstr h (exec_eq i s), State.executed_of_none hf, tickUnlessHalted_of_safe hsafe]

/-- A cycle that executed `i` and ended without a fault left the effect of `i`, ticked. -/
theorem eq_effect_tick_of_safe {s t : State} {i : Instr} (h : s.AtInstr i) (hst : step s = .next t)
    (ht : t.halt = none) : t = (s.effect i).tick := by
  obtain ⟨u, hu, rfl⟩ := step_eq_of_atInstr h hst
  rw [State.tickUnlessHalted_halt] at ht
  obtain ⟨-, rfl⟩ := exec_cases_of_safe hu ht
  exact tickUnlessHalted_of_safe ht

/-- A waiting cycle raises no fault (spec/40_engine_cycle.md R123). -/
theorem State.poll_tick_halt (s : State) (r : RegIdx) : (s.poll r).tick.halt = s.halt :=
  (State.tick_halt _).trans (s.poll_keeps r .halt (by decide))

/-- A cycle that faults is a fetch out of bounds, or the fault of the instruction at PC; the record is
then the whole of what it writes (spec/40_engine_cycle.md R125). -/
theorem step_fault_cases {s t : State} (hs : s.halt = none) (hst : step s = .next t)
    (ht : t.halt ≠ none) :
    (s.Running ∧ 4094 ≤ s.PC.toNat ∧ t = s.raise .fetchBounds 0 s.PC) ∨
    (∃ c a, s.AtInstr (decode s.wordAtPC) ∧ faultOf (decode s.wordAtPC) = some c ∧
      t = s.raise c s.wordAtPC a) := by
  obtain ⟨hh, -⟩ | ⟨r, -, -, rfl⟩ | hfetch | ⟨u, hat, hu, rfl⟩ := step_cases hst
  · exact absurd hs hh
  · exact absurd ((s.poll_tick_halt r).trans hs) ht
  · exact .inl hfetch
  · rw [State.tickUnlessHalted_halt] at ht
    obtain ⟨c, a, hf, rfl⟩ | ⟨-, rfl⟩ := exec_cases hu
    · have hword : encode (decode s.wordAtPC) = s.wordAtPC :=
        (Laws.decode_wf_and_encode_decode s.wordAtPC).2
      refine .inr ⟨c, a, hat, State.fault?_cause hf, ?_⟩
      rw [tickUnlessHalted_of_halted ht, hword]
    · exact absurd ((s.effect_halt _).trans hs) ht

/-- Settles O14, from the two ways a cycle can fault. -/
theorem faultingCycleIsPrecise : Obligations.FaultingCycleIsPrecise := by
  intro s t r hs hst ht
  have hne : t.halt ≠ none := ht ▸ Option.some_ne_none r
  obtain ⟨hr, hpc, rfl⟩ | ⟨c, a, ⟨hr, hpc, -⟩, hc, rfl⟩ := step_fault_cases hs hst hne
  · cases ht
    exact ⟨hr.2, rfl, rfl, rfl, fun _ => ⟨rfl, rfl, rfl⟩, fun hlt => absurd hpc (by omega)⟩
  · cases ht
    exact ⟨hr.2, rfl, rfl, rfl, fun hge => absurd hpc (Nat.not_lt.mpr hge), fun _ => ⟨rfl, hc⟩⟩

/-! ### What an instruction leaves to the tick -/

/-- No instruction emits an audio event: the tick does (spec/40_engine_cycle.md R127). -/
@[simp] theorem State.effect_audio (s : State) (i : Instr) : (s.effect i).audio = s.audio :=
  s.effect_keepsAllBut i .audio (by cases i <;> simp [writeParts])

theorem State.effect_DT (s : State) {i : Instr} (hi : ∀ x, i ≠ .ldDtVx x) :
    (s.effect i).DT = s.DT := by
  cases i with
  | ldDtVx x => exact absurd rfl (hi x)
  | _ => exact s.effect_keepsAllBut _ .DT (by simp [writeParts])

theorem State.effect_ST (s : State) {i : Instr} (hi : ∀ x, i ≠ .ldStVx x) :
    (s.effect i).ST = s.ST := by
  cases i with
  | ldStVx x => exact absurd rfl (hi x)
  | _ => exact s.effect_keepsAllBut _ .ST (by simp [writeParts])

theorem State.effect_random (s : State) {i : Instr} (hi : ∀ x kk, i ≠ .rnd x kk) :
    (s.effect i).rnd = s.rnd ∧ (s.effect i).drawn = s.drawn := by
  cases i with
  | rnd x kk => exact absurd rfl (hi x kk)
  | _ => exact s.effect_keepsAllBut _ .random (by simp [writeParts])

/-- The audio trace after a tick: one begin_tone more exactly if ST was 1. -/
theorem State.tick_audio_eq_append (s : State) :
    s.tick.audio = s.audio ++ (if s.ST = 1 then [.beginTone] else []) := by
  rw [State.tick_audio]
  split <;> simp

/-! ### The sound timer over many cycles -/

/-- The events emitted in `k` ticks of a sound timer that holds `n`: it reaches 0 in the `n`-th. -/
def tonesWithin (n k : Nat) : List AudioEvent := if 1 ≤ n ∧ n ≤ k then [.beginTone] else []

/-- The first tick emits if the timer held 1; the others find it one lower. -/
theorem tonesWithin_succ (n k : Nat) :
    tonesWithin n (k + 1) = tonesWithin n 1 ++ tonesWithin (n - 1) k := by
  unfold tonesWithin
  rcases Nat.lt_trichotomy n 1 with h | rfl | h
  · rw [if_neg (by omega), if_neg (by omega), if_neg (by omega), List.append_nil]
  · simp
  · rw [if_neg (by omega : ¬(1 ≤ n ∧ n ≤ 1)), List.nil_append]
    exact if_congr (by omega) rfl rfl

theorem State.tick_audio_eq_tonesWithin (s : State) :
    s.tick.audio = s.audio ++ tonesWithin s.ST.toNat 1 := by
  have hone : s.ST = 1 ↔ 1 ≤ s.ST.toNat ∧ s.ST.toNat ≤ 1 := by
    rw [← BitVec.toNat_inj, show (1 : Byte).toNat = 1 from rfl]
    omega
  rw [s.tick_audio_eq_append, tonesWithin, if_congr hone rfl rfl]

/-- A cycle that neither faults nor loads ST ticks a state with ST and the audio trace it started from. -/
theorem exists_tick_of_quiet {s t : State} (hq : ¬ ∃ x, s.AtInstr (.ldStVx x))
    (hst : step s = .next t) (ht : t.halt = none) :
    ∃ u : State, u.ST = s.ST ∧ u.audio = s.audio ∧ t = u.tick := by
  obtain ⟨hh, rfl⟩ | ⟨r, -, -, rfl⟩ | ⟨-, -, rfl⟩ | ⟨u, hat, -, -⟩ := step_cases hst
  · exact absurd ht hh
  · exact ⟨_, s.poll_keeps r .ST (by decide), s.poll_keeps r .audio (by decide), rfl⟩
  · exact absurd ht (s.raise_halt_ne_none _ _ _)
  · have hi : ∀ x, decode s.wordAtPC ≠ .ldStVx x := fun x hx => hq ⟨x, hx ▸ hat⟩
    exact ⟨_, s.effect_ST hi, s.effect_audio _, eq_effect_tick_of_safe hat hst ht⟩

/-- Over `k` quiet cycles ST falls by `k`, and the tone sounds if it has reached 0. -/
theorem quietRun_ST_audio {k : Nat} {s t : State} (h : QuietRun k s t) :
    t.ST.toNat = s.ST.toNat - k ∧ t.audio = s.audio ++ tonesWithin s.ST.toNat k := by
  induction k generalizing s with
  | zero =>
    cases h
    rw [tonesWithin, if_neg (by omega), List.append_nil]
    exact ⟨rfl, rfl⟩
  | succ k ih =>
    obtain ⟨hq, u, hst, hu, hrun⟩ := h
    obtain ⟨v, hST, haudio, rfl⟩ := exists_tick_of_quiet hq hst hu
    obtain ⟨ihST, ihaudio⟩ := ih hrun
    rw [v.tick_ST_toNat, hST] at ihST ihaudio
    rw [v.tick_audio_eq_tonesWithin, hST, haudio, List.append_assoc, ← tonesWithin_succ] at ihaudio
    exact ⟨by omega, ihaudio⟩

/-- Settles O11, by induction on the quiet cycles; LD ST,Vx loads the timer that its own tick finds. -/
theorem soundTimerTonesOnce : Obligations.SoundTimerTonesOnce := by
  refine ⟨fun k s t => quietRun_ST_audio, fun k s u t x hat hst hrun => ?_⟩
  rw [step_of_fault?_none hat rfl] at hst
  cases hst
  obtain ⟨-, haudio⟩ := quietRun_ST_audio hrun
  have hST : (s.effect (.ldStVx x)).ST = s.reg x := rfl
  rw [State.tick_ST_toNat, State.tick_audio_eq_tonesWithin, hST, State.effect_audio,
    List.append_assoc, ← tonesWithin_succ] at haudio
  exact haudio

/-! ### The cycle and the tick -/

/-- Settles O7: a Halted, a waiting and a Running cycle each answer a next state, as every instruction
does. -/
theorem stepAlwaysAnswersNext : Obligations.StepAlwaysAnswersNext := by
  refine ⟨fun s => ?_, fun i s => ⟨_, exec_eq i s⟩⟩
  by_cases hh : s.halt = none
  · cases hw : s.wait with
    | some r => exact ⟨_, step_waiting hh hw⟩
    | none =>
      by_cases hpc : s.PC.toNat < 4094
      · exact ⟨_, step_atInstr ⟨⟨hh, hw⟩, hpc, rfl⟩ (exec_eq _ s)⟩
      · exact ⟨_, step_fetchFault ⟨hh, hw⟩ (Nat.not_lt.mp hpc)⟩
  · exact ⟨_, step_halted hh⟩

/-- No instruction's own effect, and no fault, emits an audio event. -/
theorem exec_keeps_audio {i : Instr} {s t : State} (h : exec i s = .next t) : t.audio = s.audio := by
  obtain ⟨c, a, -, rfl⟩ | ⟨-, rfl⟩ := exec_cases h
  · rfl
  · exact s.effect_audio i

/-- Settles O8, from the timers and the trace after a tick. -/
theorem tickCountsDownAndTones : Obligations.TickCountsDownAndTones := by
  intro s
  refine ⟨fun h => ?_, fun h => ⟨s.tick_ST_toNat, ?_⟩, fun h => ?_, s.tick_DT_toNat,
    keepsAllBut_tick s, fun i t => exec_keeps_audio⟩
  · simp [h]
  · have hne : s.ST ≠ 1 := fun h1 => by simp [h1] at h
    rw [s.tick_audio, if_neg hne]
  · simp [h]

/-- Settles O9: such an instruction leaves both timers and the trace to the tick. -/
theorem runningCycleTicksOnce : Obligations.RunningCycleTicksOnce := by
  intro s t i hat hdt hst hstep ht
  rw [eq_effect_tick_of_safe hat hstep ht, State.tick_DT_toNat, State.tick_ST_toNat,
    State.tick_audio_eq_append, s.effect_DT hdt, s.effect_ST hst, s.effect_audio]
  exact ⟨rfl, rfl, rfl⟩

/-- Settles O10: each cycle is the tick of the effect, which has already written or read the timer. -/
theorem timerInstructionsInTheirOwnCycle : Obligations.TimerInstructionsInTheirOwnCycle := by
  refine fun s x => ⟨fun hat => ?_, fun hat => ?_, fun hat => ?_⟩
  · exact ⟨_, step_of_fault?_none hat rfl, State.tick_DT_toNat _, State.tick_PC _⟩
  · exact ⟨_, step_of_fault?_none hat rfl, State.tick_ST_toNat _, State.tick_PC _,
      State.tick_audio_eq_append _⟩
  · have hreg : (s.effect (.ldVxDt x)).reg x = s.DT := (s.reg_setReg x x s.DT).trans (if_pos rfl)
    exact ⟨_, step_of_fault?_none hat rfl, (State.reg_tick _ x).trans hreg, State.tick_DT_toNat _,
      State.tick_PC _⟩

/-- Settles O6, by the tick that runs unless the instruction faulted. -/
theorem stepRunsDecodedInstruction : Obligations.StepRunsDecodedInstruction := by
  intro s t i hat he
  rw [step_atInstr hat he]
  exact ⟨fun ht => by rw [tickUnlessHalted_of_safe ht],
    fun ht => by rw [tickUnlessHalted_of_halted ht]⟩

/-! ### Halted cycles -/

/-- A machine whose step stays where it is stays there for any number of steps. -/
theorem run_of_step_self {M : Host.Core} {s : M.State} (h : M.step s = .next s) (k : Nat) :
    M.run k s = .next s := by
  induction k with
  | zero => rfl
  | succ k ih =>
    rw [Host.Core.run, h]
    exact ih

/-- A Halted cycle leaves the Random byte it is offered unused and changes nothing else. -/
theorem State.cycleWith_of_halted {s : State} (h : s.halt ≠ none) (b : Byte) : s.cycleWith b = s := by
  rw [State.cycleWith, step_halted (s := { s with rnd := [b] }) h]

/-- While Halted, no host operation but reset touches the halt record (spec/60_exceptions.md R227). -/
theorem State.applyHostOp_halt {s : State} (h : s.halt ≠ none) {op : HostOp} (hop : op ≠ .reset) :
    (s.applyHostOp op).halt = s.halt := by
  cases op with
  | cycle b => exact congrArg State.halt (State.cycleWith_of_halted h b)
  | press k | release k | ackRedraw => rfl
  | load bytes =>
    simp only [State.applyHostOp, State.load]
    by_cases hlen : bytes.length ≤ Config.progMax
    · rw [if_pos hlen]; rfl
    · rw [if_neg hlen]
  | reset => exact absurd rfl hop

/-- Settles O12, from what Halted cycles and the host operations leave of the halt record. -/
theorem haltedStaysHalted : Obligations.HaltedStaysHalted :=
  ⟨fun k _ h => run_of_step_self (M := core) (step_halted h) k,
    fun _ _ h => ⟨State.applyHostOp_halt h, fun hop => hop ▸ rfl⟩⟩

/-! ### The Random capability and the key wait -/

/-- A cycle that does not execute RND draws no byte, whatever the mode (spec/40_engine_cycle.md R130). -/
theorem step_keeps_random {s t : State} (hst : step s = .next t)
    (hno : ¬ ∃ x kk, s.AtInstr (.rnd x kk)) : t.rnd = s.rnd ∧ t.drawn = s.drawn := by
  obtain ⟨-, rfl⟩ | ⟨r, -, -, rfl⟩ | ⟨-, -, rfl⟩ | ⟨u, hat, hu, rfl⟩ := step_cases hst
  · exact ⟨rfl, rfl⟩
  · rw [State.tick_rnd, State.tick_drawn]
    exact s.poll_keeps r .random (by decide)
  · exact ⟨rfl, rfl⟩
  · obtain ⟨c, a, -, rfl⟩ | ⟨-, rfl⟩ := exec_cases hu
    · exact ⟨rfl, rfl⟩
    · have hi : ∀ x kk, decode s.wordAtPC ≠ .rnd x kk := fun x kk hx => hno ⟨x, kk, hx ▸ hat⟩
      rw [tickUnlessHalted_of_safe ((s.effect_halt _).trans hat.1.1), State.tick_rnd,
        State.tick_drawn]
      exact s.effect_random hi

/-- Settles O34: RND draws one byte, and no other cycle draws any. -/
theorem randomConsumedOnlyByRnd : Obligations.RandomConsumedOnlyByRnd := by
  refine fun s t hst => ⟨?_, step_keeps_random hst⟩
  rintro ⟨x, kk, hat⟩
  rw [step_of_fault?_none hat rfl] at hst
  cases hst
  exact ⟨State.tick_rnd _, State.tick_drawn _⟩

/-- Settles O51: the poll stores the lowest key and ends the wait; the tick does the rest. -/
theorem waitingStoresLowestPressedKey : Obligations.WaitingStoresLowestPressedKey := by
  intro s r k hs hw hk hlow
  have hpoll := State.poll_of_some (r := r) (lowestKey_eq_some hk hlow)
  have hreg : (s.poll r).reg r = BitVec.ofNat 8 k.val := by
    rw [hpoll]
    exact (s.reg_setReg r r _).trans (if_pos rfl)
  have hDT : (s.poll r).DT = s.DT := s.poll_keeps r .DT (by decide)
  have hST : (s.poll r).ST = s.ST := s.poll_keeps r .ST (by decide)
  have haudio : (s.poll r).audio = s.audio := s.poll_keeps r .audio (by decide)
  refine ⟨_, step_waiting hs hw, ?_, ?_, ?_, fun x hx => ?_, ?_, ?_, ?_⟩
  · rw [State.reg_tick, hreg, BitVec.toNat_ofNat]
    omega
  · rw [State.tick_wait, hpoll]
  · exact (State.tick_PC _).trans (s.poll_keeps r .PC (by decide))
  · rw [State.reg_tick, s.reg_poll_of_ne (by simpa using hx)]
  · rw [State.tick_DT_toNat, hDT]
  · rw [State.tick_ST_toNat, hST]
  · rw [State.tick_audio_eq_append, hST, haudio]

end Sys2Proof.Machine

namespace Sys2Proof.Machine

/-! ### Control transfer (spec/41_flow.md) -/

theorem exec_of_fault?_none {s : State} {i : Instr} (h : s.fault? i = none) :
    exec i s = .next (s.effect i) := by
  rw [exec_eq, State.executed_of_none h]

theorem State.effect_call_SP {s : State} (h : s.SP.val < 16) (nnn : Addr12) :
    (s.effect (.call nnn)).SP.val = s.SP.val + 1 :=
  show min (s.SP.val + 1) 16 = _ by omega

theorem State.effect_call_stack {s : State} (h : s.SP.val < 16) (nnn : Addr12) (j : Fin 16) :
    (s.effect (.call nnn)).stack[j] = if j.val = s.SP.val then s.PC + 2 else s.stack[j] := by
  have hset : (s.effect (.call nnn)).stack = s.stack.set s.SP.val (s.PC + 2) := dif_pos h
  simp only [hset, Fin.getElem_fin, Vector.getElem_set, eq_comm]

theorem State.pcAfter_ret {s : State} {j : Fin 16} (h : s.SP.val = j.val + 1) :
    s.pcAfter .ret = s.stack[j] := by
  simp [State.pcAfter, h]

theorem State.pcAfter_jp_toNat (s : State) (nnn : Addr12) : (s.pcAfter (.jp nnn)).toNat = nnn.toNat :=
  BitVec.toNat_setWidth_of_le (by decide)

theorem State.pcAfter_call_toNat (s : State) (nnn : Addr12) :
    (s.pcAfter (.call nnn)).toNat = nnn.toNat := s.pcAfter_jp_toNat nnn

/-- The sum of 12 and 8 bits does not leave the 16 bits of PC (D28). -/
theorem State.pcAfter_jpV0_toNat (s : State) (nnn : Addr12) :
    (s.pcAfter (.jpV0 nnn)).toNat = nnn.toNat + (s.reg 0).toNat := by
  simp only [State.pcAfter]
  bv_omega

/-- Settles O19: the effect of CALL on a stack with a free slot, part by part. -/
theorem callPushesReturnAddress : Obligations.CallPushesReturnAddress := fun nnn s h =>
  ⟨_, exec_of_fault?_none (State.fault?_call_of_lt h nnn), State.effect_call_stack h nnn,
    State.effect_call_SP h nnn, s.pcAfter_call_toNat nnn,
    (s.effect_keepsAllBut (.call nnn)).mono
      (show ([.PC, .stack, .SP] : List Part) ⊆ [.stack, .SP, .PC] by decide)⟩

/-- Settles O20: the effect of RET on a stack with an entry, and its fault on an empty one. -/
theorem retPopsReturnAddress : Obligations.RetPopsReturnAddress := by
  refine ⟨fun s j h => ?_, fun s h => ?_⟩
  · have hne : s.SP.val ≠ 0 := by omega
    have hSP : (s.effect .ret).SP.val = j.val := show s.SP.val - 1 = _ by omega
    exact ⟨_, exec_of_fault?_none (State.fault?_ret_of_ne hne), hSP, State.pcAfter_ret h,
      (s.effect_keepsAllBut .ret).mono (show ([.PC, .SP] : List Part) ⊆ [.SP, .PC] by decide)⟩
  · have hdepth : s.SP = 0 := Fin.ext h
    rw [exec_ret_empty h, State.raise, hdepth]
    rfl

/-- Settles O22: JP and JP V0 have an effect on PC alone, and neither sum nor address is reduced. -/
theorem jumpsSetPc : Obligations.JumpsSetPc := fun nnn s =>
  ⟨⟨_, exec_of_fault?_none rfl, s.pcAfter_jp_toNat nnn, s.effect_keepsAllBut (.jp nnn)⟩,
    ⟨_, exec_of_fault?_none rfl, s.pcAfter_jpV0_toNat nnn, s.effect_keepsAllBut (.jpV0 nnn)⟩⟩

/-- Settles O23: the effect of either no-op is the step of PC. -/
theorem sysAndUnrecognizedAreNoOps : Obligations.SysAndUnrecognizedAreNoOps := fun nnn w s =>
  ⟨⟨_, exec_of_fault?_none rfl, rfl, s.effect_keepsAllBut (.sys nnn)⟩,
    ⟨_, exec_of_fault?_none rfl, rfl, s.effect_keepsAllBut (.unrecognized w)⟩⟩

end Sys2Proof.Machine

namespace Sys2Proof.Laws

/-! ### The words of one instruction (spec/30_encoding.md R94) -/

/-- Of an instruction whose word has the form xkk, the one word that decodes to it, as a number. -/
theorem decode_eq_iff_of_encode_xkk {w : Word} {i : Instr} {m : Nibble} {x : RegIdx} {kk : Byte}
    (hwf : i.wf = true) (henc : encode i = wordXKK m x kk) :
    decode w = i ↔ w.toNat = m.toNat * 4096 + 256 * x.val + kk.toNat := by
  rw [decode_eq_iff, and_iff_right hwf, henc, eq_comm, ← BitVec.toNat_inj, wordXKK_toNat,
    Nat.mul_comm x.val]

/-- Of an instruction whose word has the form xyn, the one word that decodes to it, as a number. -/
theorem decode_eq_iff_of_encode_xyn {w : Word} {i : Instr} {m n : Nibble} {x y : RegIdx}
    (hwf : i.wf = true) (henc : encode i = wordXYN m x y n) :
    decode w = i ↔ w.toNat = m.toNat * 4096 + 256 * x.val + 16 * y.val + n.toNat := by
  rw [decode_eq_iff, and_iff_right hwf, henc, eq_comm, ← BitVec.toNat_inj, wordXYN_toNat,
    Nat.mul_comm x.val, Nat.mul_comm y.val]

end Sys2Proof.Laws

namespace Sys2Proof.Machine

/-! ### Skips (spec/42_skip.md) -/

/-- Without a fault, an instruction with no write beside PC moves PC as R25 says and keeps the rest. -/
theorem exec_of_writeParts_eq_nil {s : State} {i : Instr} {w : Word} (hf : s.fault? i = none)
    (hparts : writeParts i = []) (hpc : s.pcAfter i = w) :
    ∃ t, exec i s = .next t ∧ t.PC = w ∧ KeepsAllBut [.PC] s t :=
  ⟨_, exec_of_fault?_none hf, hpc, hparts ▸ s.effect_keepsAllBut i⟩

theorem State.digitFault?_of_digit {s : State} {x k : RegIdx} (h : (s.reg x).toNat = k.val) :
    s.digitFault? x = none := if_neg (by omega)

theorem State.pcAfter_skp {s : State} {x k : RegIdx} (h : (s.reg x).toNat = k.val) :
    s.pcAfter (.skp x) = if s.key[k] = true then s.PC + 4 else s.PC + 2 := by
  simp only [State.pcAfter, getElem?_of_digit? (digit?_eq_some.mpr h), Option.some.injEq]

theorem State.pcAfter_sknp {s : State} {x k : RegIdx} (h : (s.reg x).toNat = k.val) :
    s.pcAfter (.sknp x) = if s.key[k] = false then s.PC + 4 else s.PC + 2 := by
  simp only [State.pcAfter, getElem?_of_digit? (digit?_eq_some.mpr h), Option.some.injEq,
    ← Bool.not_eq_true, ite_not]

/-- Settles O24: no comparing skip faults or writes beside PC; the words follow from the round trips. -/
theorem skipsCompareRegisters : Obligations.SkipsCompareRegisters := fun x y kk _ =>
  ⟨exec_of_writeParts_eq_nil (i := .seImm x kk) rfl rfl rfl,
    exec_of_writeParts_eq_nil (i := .sneImm x kk) rfl rfl (ite_not ..).symm,
    exec_of_writeParts_eq_nil (i := .seReg x y) rfl rfl rfl,
    exec_of_writeParts_eq_nil (i := .sneReg x y) rfl rfl (ite_not ..).symm,
    fun w => ⟨Laws.decode_eq_iff_of_encode_xkk (m := 0x3) rfl rfl,
      Laws.decode_eq_iff_of_encode_xkk (m := 0x4) rfl rfl,
      Laws.decode_eq_iff_of_encode_xyn (m := 0x5) (n := 0x0) rfl rfl,
      Laws.decode_eq_iff_of_encode_xyn (m := 0x9) (n := 0x0) rfl rfl,
      fun hmajor hn =>
        Laws.decode_of_isUnrecognizedWord ((Laws.isUnrecognizedWord_iff w).mpr (.inl ⟨hmajor, hn⟩))⟩⟩

/-- Settles O25: with a digit in Vx neither key skip faults, and PC alone is written. -/
theorem skipsOnKeyLevel : Obligations.SkipsOnKeyLevel := fun x _ _ h =>
  ⟨exec_of_writeParts_eq_nil (i := .skp x) (State.digitFault?_of_digit h) rfl (State.pcAfter_skp h),
    exec_of_writeParts_eq_nil (i := .sknp x) (State.digitFault?_of_digit h) rfl
      (State.pcAfter_sknp h)⟩

end Sys2Proof.Machine

namespace Sys2Proof.Laws

/-- Of an instruction whose word has the form nnn, the one word that decodes to it, as a number. -/
theorem decode_eq_iff_of_encode_nnn {w : Word} {i : Instr} {m : Nibble} {nnn : Addr12}
    (hwf : i.wf = true) (henc : encode i = wordNNN m nnn) :
    decode w = i ↔ w.toNat = m.toNat * 4096 + nnn.toNat := by
  rw [decode_eq_iff, and_iff_right hwf, henc, eq_comm, ← BitVec.toNat_inj, wordNNN_toNat]

end Sys2Proof.Laws

namespace Sys2Proof.Machine

/-! ### Register load, arithmetic, logic, shift and random (spec/43_alu.md) -/

/-- An instruction that stores one byte in Vx and advances PC changes nothing else. -/
theorem exec_of_writes_setReg {s : State} {i : Instr} {x : RegIdx} {b : Byte}
    (hf : s.fault? i = none) (hpc : s.pcAfter i = s.PC + 2) (hw : s.writes i = s.setReg x b) :
    ∃ t, exec i s = .next t ∧ t.reg x = b ∧ t.PC = s.PC + 2 ∧ KeepsRegsBut [x] s t ∧
      KeepsAllBut [.V, .PC] s t := by
  rw [exec_of_fault?_none hf, State.effect, hpc, hw]
  refine ⟨_, rfl, ?_, rfl, fun r hr => ?_, (keepsAllBut_setReg s x b).trans (keepsAllBut_jump _ _)⟩
  · exact (s.reg_setReg x x b).trans (if_pos rfl)
  · exact (s.reg_setReg x r b).trans (if_neg (List.ne_of_not_mem_cons hr))

/-- An instruction that stores a result in Vx and then a flag in VF, and advances PC, changes nothing
else; with `x = 15` only the flag is left (R172). -/
theorem exec_of_writes_setResultFlag {s : State} {i : Instr} {x : RegIdx} {b : Byte} {f : Bool}
    (hf : s.fault? i = none) (hpc : s.pcAfter i = s.PC + 2)
    (hw : s.writes i = s.setResultFlag x b f) :
    ∃ t, exec i s = .next t ∧ (x ≠ 15 → t.reg x = b) ∧ t.reg 15 = flagByte f ∧ t.PC = s.PC + 2 ∧
      KeepsRegsBut [x, 15] s t ∧ KeepsAllBut [.V, .PC] s t := by
  rw [exec_of_fault?_none hf, State.effect, hpc, hw]
  refine ⟨_, rfl, fun hx => ?_, s.reg_setResultFlag x 15 b f, rfl, fun r hr => ?_,
    (keepsAllBut_setResultFlag s x b f).trans (keepsAllBut_jump _ _)⟩
  · exact (s.reg_setResultFlag x x b f).trans ((if_neg hx).trans (if_pos rfl))
  · obtain ⟨hx, h15⟩ : r ≠ x ∧ r ≠ 15 := by simpa using hr
    exact (s.reg_setResultFlag x r b f).trans ((if_neg h15).trans (if_neg hx))

theorem flagByte_decide (p : Prop) [Decidable p] : flagByte (decide p) = if p then 1 else 0 := by
  simp only [flagByte, decide_eq_true_eq]

/-- A flag taken from bit `k` of a byte, as a number. -/
theorem flagByte_getLsbD_toNat (a : Byte) (k : Nat) :
    (flagByte (a.getLsbD k)).toNat = a.toNat / 2 ^ k % 2 := by
  have hflag (f : Bool) : (flagByte f).toNat = f.toNat := by cases f <;> rfl
  rw [hflag, BitVec.getLsbD, Nat.toNat_testBit]

theorem rightShiftOut_toNat (a : Byte) : (flagByte (rightShiftOut a)).toNat = a.toNat % 2 := by
  rw [rightShiftOut, flagByte_getLsbD_toNat, Nat.pow_zero, Nat.div_one]

theorem leftShiftOut_toNat (a : Byte) : (flagByte (leftShiftOut a)).toNat = a.toNat / 128 := by
  have ha := a.isLt
  rw [leftShiftOut, flagByte_getLsbD_toNat]
  omega

/-- Subtraction of bytes in the form of R168 and R170. -/
theorem byte_sub_toNat (a b : Byte) : (a - b).toNat = (a.toNat + 256 - b.toNat) % 256 := by
  bv_omega

theorem byte_shiftRight_one_toNat (a : Byte) : (a >>> 1).toNat = a.toNat / 2 :=
  a.toNat_ushiftRight 1

theorem byte_shiftLeft_one_toNat (a : Byte) : (a <<< 1).toNat = 2 * a.toNat % 256 := by
  rw [BitVec.toNat_shiftLeft, Nat.shiftLeft_eq, Nat.mul_comm, Nat.pow_one]

theorem State.randomByte_of_cons {s : State} {b : Byte} {rest : List Byte} (h : s.rnd = b :: rest) :
    s.randomByte = b := by rw [State.randomByte, h]

theorem State.randomByte_of_nil {s : State} (h : s.rnd = []) :
    s.randomByte = Config.rnd s.drawn := by rw [State.randomByte, h]

/-- Settles O29: the write rule for a result with a flag, at the sum and its carry. -/
theorem addSetsCarry : Obligations.AddSetsCarry := fun x y _ =>
  (exec_of_writes_setResultFlag (i := .addReg x y) rfl rfl rfl).imp
    fun _ ⟨he, hres, hflag, hframe⟩ =>
      ⟨he, fun hx => hres hx ▸ BitVec.toNat_add _ _, hflag.trans (flagByte_decide _), hframe⟩

/-- Settles O30: the write rule for a result with a flag, at either difference. -/
theorem subtractSetsNoBorrow : Obligations.SubtractSetsNoBorrow := fun x y _ =>
  ⟨(exec_of_writes_setResultFlag (i := .sub x y) rfl rfl rfl).imp
      fun _ ⟨he, hres, hflag, hframe⟩ =>
        ⟨he, fun hx => hres hx ▸ byte_sub_toNat _ _, hflag.trans (flagByte_decide _), hframe⟩,
    (exec_of_writes_setResultFlag (i := .subn x y) rfl rfl rfl).imp
      fun _ ⟨he, hres, hflag, hframe⟩ =>
        ⟨he, fun hx => hres hx ▸ byte_sub_toNat _ _, hflag.trans (flagByte_decide _), hframe⟩⟩

/-- Settles O31: the write rule for a result with a flag; result and flag are of Vx alone (D11). -/
theorem shiftsInPlaceSetVf : Obligations.ShiftsInPlaceSetVf := fun x y _ =>
  ⟨(exec_of_writes_setResultFlag (i := .shr x y) rfl rfl rfl).imp
      fun _ ⟨he, hres, hflag, hframe⟩ =>
        ⟨he, fun hx => hres hx ▸ byte_shiftRight_one_toNat _, hflag ▸ rightShiftOut_toNat _, hframe⟩,
    (exec_of_writes_setResultFlag (i := .shl x y) rfl rfl rfl).imp
      fun _ ⟨he, hres, hflag, hframe⟩ =>
        ⟨he, fun hx => hres hx ▸ byte_shiftLeft_one_toNat _, hflag ▸ leftShiftOut_toNat _, hframe⟩⟩

/-- Settles O27: two loads by the write rule for one register, LD I by the frame of its effect. -/
theorem loadsOfRegistersAndIndex : Obligations.LoadsOfRegistersAndIndex := fun x y kk nnn s =>
  ⟨exec_of_writes_setReg (i := .ldImm x kk) rfl rfl rfl,
    exec_of_writes_setReg (i := .ldReg x y) rfl rfl rfl,
    ⟨_, exec_of_fault?_none rfl, BitVec.toNat_setWidth_of_le (by decide), rfl,
      (s.effect_keepsAllBut (.ldI nnn)).mono (show ([.PC, .I] : List Part) ⊆ [.I, .PC] by decide)⟩,
    fun _ => ⟨Laws.decode_eq_iff_of_encode_xkk (m := 0x6) rfl rfl,
      Laws.decode_eq_iff_of_encode_xyn (m := 0x8) (n := 0x0) rfl rfl,
      Laws.decode_eq_iff_of_encode_nnn (m := 0xA) rfl rfl⟩⟩

/-- Settles O28: the write rule for one register, with the sum as a number and the logic by bits. -/
theorem addImmediateAndLogicLeaveVf : Obligations.AddImmediateAndLogicLeaveVf := fun x y kk _ =>
  ⟨(exec_of_writes_setReg (i := .addImm x kk) rfl rfl rfl).imp fun _ ⟨he, hx, hframe⟩ =>
      ⟨he, hx ▸ BitVec.toNat_add _ _, hframe⟩,
    (exec_of_writes_setReg (i := .or x y) rfl rfl rfl).imp fun _ ⟨he, hx, hframe⟩ =>
      ⟨he, fun _ _ => hx ▸ BitVec.getLsbD_or, hframe⟩,
    (exec_of_writes_setReg (i := .and x y) rfl rfl rfl).imp fun _ ⟨he, hx, hframe⟩ =>
      ⟨he, fun _ _ => hx ▸ BitVec.getLsbD_and, hframe⟩,
    (exec_of_writes_setReg (i := .xor x y) rfl rfl rfl).imp fun _ ⟨he, hx, hframe⟩ =>
      ⟨he, fun _ _ => hx ▸ BitVec.getLsbD_xor, hframe⟩⟩

/-- Settles O33: the effect of RND, its byte said for a fixed and for a free capability. -/
theorem randomByteIsMasked : Obligations.RandomByteIsMasked := by
  intro x kk s
  have hx : (s.effect (.rnd x kk)).reg x = s.randomByte &&& kk :=
    (s.drawRandom.reg_setReg x x _).trans (if_pos rfl)
  have hrnd : (s.effect (.rnd x kk)).rnd = s.rnd.tail := rfl
  refine ⟨_, exec_of_fault?_none rfl, fun b rest h => ?_, fun h => ?_, rfl, rfl,
    fun r hr => State.effect_reg (beq_false_of_ne (List.ne_of_not_mem_cons hr)),
    (s.effect_keepsAllBut (.rnd x kk)).mono
      (show ([.PC, .V, .random] : List Part) ⊆ [.V, .PC, .random] by decide)⟩
  · rw [hx, hrnd, State.randomByte_of_cons h, h]
    exact ⟨rfl, rfl⟩
  · rw [hx, hrnd, State.randomByte_of_nil h, h]
    exact ⟨rfl, rfl⟩

end Sys2Proof.Machine

namespace Sys2Proof.Machine

/-! ### The index register and the memory instructions (spec/44_index_memory.md) -/

theorem State.dataBoundsFault?_of_le {s : State} {n : Nat} (h : s.I.toNat + n ≤ 4096) :
    s.dataBoundsFault? n = none :=
  Option.map_eq_none_iff.mpr (State.dataFault?_eq_none.mpr (.inr (by omega)))

/-- An instruction that accesses `n` bytes at `I`, the last of them above 4095, enters the record of
R226 with the lowest address out of range. -/
theorem exec_of_dataBounds {s : State} {i : Instr} {n : Nat} (hi : s.fault? i = s.dataBoundsFault? n)
    (hn : 0 < n) (h : 4095 < s.I.toNat + n - 1) :
    exec i s = .next
      (s.raise .dataBounds (encode i) (BitVec.ofNat 16 (max s.I.toNat 4096))) := by
  have hf : s.fault? i = some (.dataBounds, BitVec.ofNat 16 (max s.I.toNat 4096)) := by
    rw [hi, State.dataBoundsFault?, State.dataFault?_eq_some hn h, Option.map_some]
  rw [exec_eq, State.executed_of_some hf]

/-- An effect leaves each byte it stores at its ascending address. -/
theorem State.byteAt_effect_of_storedBytes {s : State} {i : Instr} {j : Nat} {b : Byte}
    (h : (s.storedBytes i)[j]? = some b) : (s.effect i).byteAt (s.I.toNat + j) = b := by
  rw [State.byteAt, State.effect_mem, Memory.read_writeRun, State.dataAddr, Nat.add_zero,
    if_pos (Nat.le_add_right _ _), Nat.add_sub_cancel_left, h, Option.getD_some]

theorem State.reg_effect_ldVxMem (s : State) (x j : RegIdx) :
    (s.effect (.ldVxMem x)).reg j = if j ≤ x then s.byteAt (s.I.toNat + j.val) else s.reg j :=
  s.reg_loadRegs x j

/-- Inside the memory the advance of `I` does not wrap (R185, R186). -/
theorem State.advanceI_I_toNat {s : State} {x : RegIdx} (h : s.I.toNat + x.val ≤ 4095) :
    (s.advanceI x).I.toNat = s.I.toNat + (x.val + 1) := by
  rw [State.advanceI_I, BitVec.toNat_add, BitVec.toNat_ofNat]
  omega

/-- Settles O38: each digit is one of the stored bytes, and all are below 256. -/
theorem bcdStoreWritesDigits : Obligations.BcdStoreWritesDigits := by
  intro x s h
  have hdigit {n : Nat} (hn : n ≤ (s.reg x).toNat) : (BitVec.ofNat 8 n).toNat = n :=
    Nat.mod_eq_of_lt (hn.trans_lt (s.reg x).isLt)
  have hbyte {j : Nat} {b : Byte} (hb : (decimalDigits (s.reg x))[j]? = some b) :
      (s.effect (.ldB x)).byteAt (s.I.toNat + j) = b := State.byteAt_effect_of_storedBytes hb
  refine ⟨_, exec_of_fault?_none (State.dataBoundsFault?_of_le (by omega)), ?_, ?_, ?_,
    s.effect_keepsBytesOutside (.ldB x), rfl,
    (s.effect_keepsAllBut (.ldB x)).mono (show ([.PC, .mem] : List Part) ⊆ [.mem, .PC] by decide)⟩
  · rw [← Nat.add_zero s.I.toNat, hbyte rfl, hdigit (by omega)]
  · rw [hbyte rfl, hdigit (by omega)]
  · rw [hbyte rfl, hdigit (by omega)]

/-- Settles O39: the effect of the dump with its last address inside the memory, else its fault. -/
theorem registerDumpStoresAndAdvances : Obligations.RegisterDumpStoresAndAdvances := fun x s =>
  ⟨fun h => ⟨_, exec_of_fault?_none (State.dataBoundsFault?_of_le (by omega)),
      fun _ => s.byteAt_effect_ldMemVx, s.effect_keepsBytesOutside (.ldMemVx x),
      State.advanceI_I_toNat h, rfl,
      (s.effect_keepsAllBut (.ldMemVx x)).mono
        (show ([.PC, .mem, .I] : List Part) ⊆ [.mem, .I, .PC] by decide)⟩,
    fun h => exec_of_dataBounds (i := .ldMemVx x) rfl x.val.succ_pos h⟩

/-- Settles O40: the effect of the load with its last address inside the memory, else its fault. -/
theorem registerLoadReadsAndAdvances : Obligations.RegisterLoadReadsAndAdvances := fun x s =>
  ⟨fun h => ⟨_, exec_of_fault?_none (State.dataBoundsFault?_of_le (by omega)),
      fun j hj => (s.reg_effect_ldVxMem x j).trans (if_pos hj),
      fun j hj => (s.reg_effect_ldVxMem x j).trans (if_neg hj.not_ge),
      State.advanceI_I_toNat h, rfl,
      (s.effect_keepsAllBut (.ldVxMem x)).mono
        (show ([.PC, .V, .I] : List Part) ⊆ [.V, .I, .PC] by decide)⟩,
    fun h => exec_of_dataBounds (i := .ldVxMem x) rfl x.val.succ_pos h⟩

/-- A load from the base of a dump, with the memory the dump has left, reads what the dump stored. -/
theorem State.reg_effect_ldVxMem_of_dump {s t : State} {x j : RegIdx}
    (hmem : t.mem = (s.effect (.ldMemVx x)).mem) (hI : t.I = s.I) (hj : j ≤ x) :
    (t.effect (.ldVxMem x)).reg j = s.reg j := by
  rw [State.reg_effect_ldVxMem, if_pos hj, hI, State.byteAt_congr hmem, s.byteAt_effect_ldMemVx hj]

/-- Settles O41: the dump and the load have the same base and limit, so neither leaves the memory. -/
theorem dumpThenLoadRestores : Obligations.DumpThenLoadRestores := by
  intro x s v h
  have hcount : s.I.toNat + (x.val + 1) ≤ 4096 := by omega
  exact ⟨_, _, exec_of_fault?_none (State.dataBoundsFault?_of_le hcount),
    exec_of_fault?_none (State.dataBoundsFault?_of_le hcount),
    fun _ => State.reg_effect_ldVxMem_of_dump rfl rfl,
    fun j hj => (State.reg_effect_ldVxMem _ x j).trans (if_neg hj.not_ge),
    State.advanceI_I_toNat h, rfl⟩

theorem byteOperand_toNat (b : Byte) : (byteOperand b).toNat = b.toNat :=
  BitVec.toNat_setWidth_of_le (by decide)

/-- Settles O37: both effects write I beside PC, and five times a digit does not leave the 16 bits. -/
theorem addIndexAndFontPointer : Obligations.AddIndexAndFontPointer := by
  intro x s
  have hparts : ([.PC, .I] : List Part) ⊆ [.I, .PC] := by decide
  refine ⟨⟨_, exec_of_fault?_none rfl, ?_, rfl, (s.effect_keepsAllBut (.addI x)).mono hparts⟩,
    fun h => ⟨_, exec_of_fault?_none (if_neg h.not_gt), Nat.mod_eq_of_lt ?_, rfl,
      (s.effect_keepsAllBut (.ldF x)).mono hparts⟩⟩
  · exact byteOperand_toNat (s.reg x) ▸ BitVec.toNat_add s.I (byteOperand (s.reg x))
  · simp only [Config.glyphBytes]
    omega

end Sys2Proof.Machine

namespace Sys2Proof.Machine

/-! ### The display instructions (spec/45_display.md) -/

theorem pixel_clearedFb {t : State} (h : t.fb = clearedFb) (row : Fin 32) (col : Fin 64) :
    t.pixel row col = false := by
  simp [State.pixel, h, clearedFb]

theorem fb_eq_of_pixel_eq {s t : State} (h : ∀ row col, t.pixel row col = s.pixel row col) :
    t.fb = s.fb :=
  Vector.ext fun row hrow => Vector.ext fun col hcol => h ⟨row, hrow⟩ ⟨col, hcol⟩

theorem State.fault?_drw_of_inside {s : State} {n : Fin 16}
    (h : n.val = 0 ∨ s.I.toNat + n.val - 1 ≤ 4095) (x y : RegIdx) : s.fault? (.drw x y n) = none :=
  Option.map_eq_none_iff.mpr (State.dataFault?_eq_none.mpr h)

/-- The drawing loop toggles the pixels the sprite has a 1 bit on (R191, R192). -/
theorem State.drawSprite_toggles (s : State) (x y : RegIdx) (n : Fin 16) :
    Toggles (s.spriteBit (s.reg x).toNat (s.reg y).toNat n.val) { fb := s.fb, collision := false }
      (s.drawSprite x y n) := by
  rw [State.drawSprite]
  convert drawRows_toggles (s.reg x).toNat (s.reg y).toNat (s.spriteBytes n.val) _ using 1
  funext row col
  rw [Bool.eq_iff_iff, State.spriteBit, s.spriteBytes_length]
  simp only [Bool.and_eq_true, decide_eq_true_eq]
  refine and_congr_right fun ⟨hle, hlt, _⟩ => ?_
  have hlen : row.val - (s.reg y).toNat < (s.spriteBytes n.val).length := by
    rw [s.spriteBytes_length]; omega
  rw [List.getD_eq_getElem _ _ hlen, s.spriteBytes_getElem]

theorem State.pixel_effect_drw (s : State) (x y : RegIdx) (n : Fin 16) (row : Fin 32)
    (col : Fin 64) : (s.effect (.drw x y n)).pixel row col =
      (s.pixel row col != s.spriteBit (s.reg x).toNat (s.reg y).toNat n.val row col) :=
  (s.drawSprite_toggles x y n).1 row col

theorem State.reg_effect_drw (s : State) (x y : RegIdx) (n : Fin 16) :
    (s.effect (.drw x y n)).reg 15 = flagByte (s.drawSprite x y n).collision :=
  State.reg_setFlag _ 15 _

theorem flagByte_eq_one_iff (f : Bool) : flagByte f = 1 ↔ f = true := by cases f <;> decide

/-- VF reports exactly the lit pixels that a DRW unsets (R194). -/
theorem State.reg_effect_drw_eq_one_iff (s : State) (x y : RegIdx) (n : Fin 16) :
    (s.effect (.drw x y n)).reg 15 = 1 ↔ ∃ row col, s.pixel row col = true ∧
      s.spriteBit (s.reg x).toNat (s.reg y).toNat n.val row col = true := by
  rw [s.reg_effect_drw, flagByte_eq_one_iff, (s.drawSprite_toggles x y n).2]
  exact or_iff_right Bool.false_ne_true

/-- Nothing of a sprite without rows, or right of or below the grid, lands on a pixel (R193, D18). -/
theorem State.spriteBit_off_grid {x0 y0 n : Nat} (h : 64 ≤ x0 ∨ 32 ≤ y0 ∨ n = 0) (s : State)
    (row : Fin 32) (col : Fin 64) : s.spriteBit x0 y0 n row col = false := by
  have hout : ¬ (y0 ≤ row.val ∧ row.val < y0 + n ∧ x0 ≤ col.val ∧ col.val < x0 + 8) := by omega
  rw [State.spriteBit, decide_eq_false hout, Bool.false_and]

/-- Settles O45: the effect of CLS, part by part. -/
theorem clsClearsEveryPixel : Obligations.ClsClearsEveryPixel := fun s =>
  ⟨_, exec_of_fault?_none rfl, pixel_clearedFb rfl, rfl, rfl,
    (s.effect_keepsAllBut .cls).mono
      (show ([.PC, .fb, .dirty] : List Part) ⊆ [.fb, .dirty, .PC] by decide)⟩

/-- Settles O46: the effect of a DRW whose sprite bytes are inside the memory, part by part. -/
theorem drwXorsTheSprite : Obligations.DrwXorsTheSprite := fun x y n s h =>
  ⟨_, exec_of_fault?_none (State.fault?_drw_of_inside h x y), s.pixel_effect_drw x y n,
    s.reg_effect_drw x y n ▸ flagByte_eq _, s.reg_effect_drw_eq_one_iff x y n, rfl, rfl,
    fun _ hr => State.effect_reg (beq_false_of_ne (List.ne_of_not_mem_cons hr)),
    (s.effect_keepsAllBut (.drw x y n)).mono
      (show ([.PC, .fb, .V, .dirty] : List Part) ⊆ [.fb, .V, .dirty, .PC] by decide)⟩

/-- Settles O47: such a sprite has no 1 bit on the grid, so it toggles no pixel and meets no lit one. -/
theorem drwOffTheGridDrawsNothing : Obligations.DrwOffTheGridDrawsNothing := by
  intro x y n s h hoff
  obtain ⟨t, he, hpixel, hflag, hcollision, hdirty, -⟩ := drwXorsTheSprite x y n s h
  have hbit := State.spriteBit_off_grid hoff s
  refine ⟨t, he, fb_eq_of_pixel_eq fun row col => ?_, hflag.resolve_right fun h1 => ?_, hdirty⟩
  · rw [hpixel, hbit, Bool.bne_false]
  · obtain ⟨row, col, -, hlit⟩ := hcollision.mp h1
    exact Bool.false_ne_true ((hbit row col).symm.trans hlit)

/-- What the second DRW of O48 starts from: the first has drawn, and VF is put back. -/
def State.drawnWithRegsKept (s : State) (x y : RegIdx) (n : Fin 16) : State :=
  { s.effect (.drw x y n) with V := s.V }

/-- It toggles every pixel of the grid as the first DRW did: same coordinates, same sprite bytes. -/
theorem State.pixel_effect_drw_again (s : State) (x y : RegIdx) (n : Fin 16) (row : Fin 32)
    (col : Fin 64) : ((s.drawnWithRegsKept x y n).effect (.drw x y n)).pixel row col =
      ((s.effect (.drw x y n)).pixel row col !=
        s.spriteBit (s.reg x).toNat (s.reg y).toNat n.val row col) :=
  (s.drawnWithRegsKept x y n).pixel_effect_drw x y n row col

theorem State.reg_effect_drw_again_eq_one_iff (s : State) (x y : RegIdx) (n : Fin 16) :
    ((s.drawnWithRegsKept x y n).effect (.drw x y n)).reg 15 = 1 ↔
      ∃ row col, (s.effect (.drw x y n)).pixel row col = true ∧
        s.spriteBit (s.reg x).toNat (s.reg y).toNat n.val row col = true :=
  (s.drawnWithRegsKept x y n).reg_effect_drw_eq_one_iff x y n

/-- Settles O48: toggling the same pixels again restores each; from a clear screen the lit pixels that
the second DRW meets are the sprite's own. -/
theorem drwTwiceCancels : Obligations.DrwTwiceCancels := by
  intro x y n s h
  refine ⟨_, _, exec_of_fault?_none (State.fault?_drw_of_inside h x y),
    exec_of_fault?_none (s := s.drawnWithRegsKept x y n) (State.fault?_drw_of_inside h x y),
    fb_eq_of_pixel_eq fun row col => ?_, fun hclear => ?_⟩
  · rw [s.pixel_effect_drw_again, s.pixel_effect_drw, Bool.bne_assoc, bne_self_eq_false,
      Bool.bne_false]
  · refine (s.reg_effect_drw_again_eq_one_iff x y n).trans (exists₂_congr fun row col => ?_)
    rw [s.pixel_effect_drw, hclear, Bool.false_bne, and_self_iff]

end Sys2Proof.Machine

namespace Sys2Proof.Machine

/-! ### The timer instructions and the start of a key wait before the tick (46_timer_key.md) -/

/-- The frame of an instruction that writes one part beside PC (R43). -/
theorem State.effect_keepsAllBut_of_writeParts_eq_singleton {i : Instr} {p : Part}
    (h : writeParts i = [p]) (s : State) : KeepsAllBut [p, .PC] s (s.effect i) :=
  (s.effect_keepsAllBut i).mono (h ▸ (List.Perm.swap p .PC []).subset)

/-- Settles O49: none of the four raises a fault; LD Vx,DT is a register write, and each of the others
writes one part beside PC. -/
theorem timerAndKeyWaitInstructions : Obligations.TimerAndKeyWaitInstructions := fun _ s =>
  ⟨exec_of_writes_setReg rfl rfl rfl,
    ⟨_, exec_of_fault?_none rfl, rfl, rfl, s.effect_keepsAllBut_of_writeParts_eq_singleton rfl⟩,
    ⟨_, exec_of_fault?_none rfl, rfl, rfl, s.effect_keepsAllBut_of_writeParts_eq_singleton rfl⟩,
    ⟨_, exec_of_fault?_none rfl, rfl, rfl, s.effect_keepsAllBut_of_writeParts_eq_singleton rfl⟩⟩

end Sys2Proof.Machine

namespace Sys2Proof.Machine

/-! ### The host operations and the invariant (spec/60_exceptions.md R236 to R243) -/

/-- One run_one_cycle: a step that is offered one Random byte, after which the stream is as before. -/
theorem State.exists_step_of_cycleWith (s : State) (b : Byte) :
    ∃ t, step { s with rnd := [b] } = .next t ∧ s.cycleWith b = { t with rnd := s.rnd } := by
  obtain ⟨t, ht⟩ := stepAlwaysAnswersNext.1 { s with rnd := [b] }
  exact ⟨t, ht, by rw [State.cycleWith, ht]⟩

/-- load stores a program that fits at 0x200 and rejects a larger one without effect (R263). -/
theorem State.applyHostOp_load (s : State) (bytes : List Byte) : s.applyHostOp (.load bytes) =
    if bytes.length ≤ Config.progMax then s.storeRun Config.progBase bytes else s := by
  rw [State.applyHostOp, State.load]
  split_ifs <;> rfl

/-- The invariant speaks of no part that the host sets: the key latch, the redraw flag, the Random
stream. -/
theorem Inv.withHostParts {s : State} (h : Inv s) (key : Vector Bool Config.nKeys) (dirty : Bool)
    (rnd : List Byte) : Inv { s with key := key, dirty := dirty, rnd := rnd } :=
  ⟨h.memCanonical, h.pcBound, h.returnAddrs, h.notWaitingHalted, h.haltRecordFits⟩

/-- Stores inside the memory keep its canonical form, and touch nothing else. -/
theorem Inv.storeRun {s : State} (h : Inv s) {a : Nat} {bs : List Byte}
    (ha : a + bs.length ≤ Config.memSize) : Inv (s.storeRun a bs) :=
  ⟨Memory.wf_writeRun h.memCanonical ha, h.pcBound, h.returnAddrs, h.notWaitingHalted,
    h.haltRecordFits⟩

theorem Inv.cycleWith {s : State} (h : Inv s) (b : Byte) : Inv (s.cycleWith b) := by
  obtain ⟨t, ht, hcycle⟩ := s.exists_step_of_cycleWith b
  have hstep : Inv t := stepKeepsTheInvariant _ t (h.withHostParts s.key s.dirty [b]) ht
  rw [hcycle]
  exact hstep.withHostParts t.key t.dirty s.rnd

theorem Inv.applyHostOp {s : State} (h : Inv s) (op : HostOp) : Inv (s.applyHostOp op) := by
  cases op with
  | cycle b => exact h.cycleWith b
  | press k => exact h.withHostParts (s.key.set k true) s.dirty s.rnd
  | release k => exact h.withHostParts (s.key.set k false) s.dirty s.rnd
  | load bytes =>
    rw [State.applyHostOp_load]
    split
    · next hlen => exact h.storeRun (Nat.add_le_add_left hlen Config.progBase)
    · exact h
  | reset => exact inv_resetWith s.mem.font s.rnd s.drawn s.audio
  | ackRedraw => exact h.withHostParts s.key false s.rnd

theorem Inv.runOps {s : State} (h : Inv s) (ops : List HostOp) : Inv (s.runOps ops) := by
  induction ops generalizing s with
  | nil => exact h
  | cons op ops ih => exact ih (h.applyHostOp op)

/-- Settles O55: every operation keeps the invariant, and by induction so does every list of them, which
starts at a constructed engine from the invariant (O53). -/
theorem everyHostRunKeepsTheInvariant : Obligations.EveryHostRunKeepsTheInvariant :=
  ⟨fun _ op h => h.applyHostOp op,
    fun font rnd ops => (resetMeetsTheInvariant.2 font rnd).runOps ops⟩

end Sys2Proof.Machine

namespace Sys2Proof.Machine

/-! ### The five faults (spec/60_exceptions.md R220 to R228) -/

/-- Settles O15: a fault entered is the instruction's own, and an effect halts nothing. -/
theorem eachInstructionRaisesOnlyItsFault : Obligations.EachInstructionRaisesOnlyItsFault := by
  intro i s t hs he ht
  obtain ⟨c, a, hf, rfl⟩ | ⟨-, rfl⟩ := exec_cases he
  · exact ⟨c, a, State.fault?_cause hf, rfl⟩
  · exact absurd ((s.effect_halt i).trans hs) ht

/-- Settles O13: a fetch out of bounds enters that record. -/
theorem fetchBoundsHalts : Obligations.FetchBoundsHalts := fun _ hr hpc =>
  ⟨step_fetchFault hr hpc, rfl⟩

/-- Settles O21: CALL on a full stack and RET on an empty one enter these records, with the words
`2nnn` and `00EE`. -/
theorem stackFaultsHalt : Obligations.StackFaultsHalt :=
  ⟨fun nnn _ h => exec_call_full h nnn, fun _ h => exec_ret_empty h, rfl, rfl⟩

/-- An instruction that takes a digit from a register above 15 enters the record of R225 with the
register's value. -/
theorem exec_of_digitRange {s : State} {i : Instr} {x : RegIdx} (hi : s.fault? i = s.digitFault? x)
    (h : 15 < (s.reg x).toNat) : exec i s = .next
      (s.raise .digitRange (encode i) (BitVec.ofNat 16 (s.reg x).toNat)) := by
  have hf : s.fault? i = some (.digitRange, BitVec.ofNat 16 (s.reg x).toNat) := by
    rw [hi, State.digitFault?, if_pos h, byteOperand, BitVec.ofNat_toNat]
  rw [exec_eq, State.executed_of_some hf]

/-- Settles O26: SKP, SKNP and LD F are the instructions that take a digit from Vx. -/
theorem digitRangeHalts : Obligations.DigitRangeHalts := by
  refine fun x s h => ⟨fun i hi => exec_of_digitRange ?_ h, rfl⟩
  rcases hi with rfl | rfl | rfl <;> rfl

/-- Settles O42: the last byte of each access, 3 for LD B, x + 1 for the register moves and n for DRW,
lies above 4095. -/
theorem dataBoundsHalts : Obligations.DataBoundsHalts := by
  rintro i s (⟨x, rfl, h⟩ | ⟨x, rfl | rfl, h⟩ | ⟨x, y, n, rfl, hn, h⟩)
  · exact ⟨exec_of_dataBounds (i := .ldB x) rfl (Nat.succ_pos 2) h, rfl⟩
  · exact ⟨exec_of_dataBounds (i := .ldMemVx x) rfl x.val.succ_pos h, rfl⟩
  · exact ⟨exec_of_dataBounds (i := .ldVxMem x) rfl x.val.succ_pos h, rfl⟩
  · exact ⟨exec_of_dataBounds (i := .drw x y n) rfl hn h, rfl⟩

end Sys2Proof.Machine

namespace Sys2Proof.Machine

/-! ### press_key and release_key (spec/60_exceptions.md R240, R241) -/

/-- What press_key (`b = true`) and release_key (`b = false`) both do. -/
def State.setKey (s : State) (k : RegIdx) (b : Bool) : State := { s with key := s.key.set k b }

theorem State.pressKey_eq_setKey (s : State) (k : RegIdx) : s.pressKey k = s.setKey k true := rfl

theorem State.releaseKey_eq_setKey (s : State) (k : RegIdx) : s.releaseKey k = s.setKey k false := rfl

theorem State.key_setKey (s : State) (k j : RegIdx) (b : Bool) :
    (s.setKey k b).key[j] = if j = k then b else s.key[j] := by
  simp only [State.setKey, Fin.getElem_fin, Vector.getElem_set, Fin.ext_iff, eq_comm (a := j.val)]

theorem keepsAllBut_setKey (s : State) (k : RegIdx) (b : Bool) :
    KeepsAllBut [.key] s (s.setKey k b) := by
  intro p hp
  cases p <;> simp_all [State.setKey, Part.Same, State.byteAt, State.reg]

theorem State.setKey_setKey (s : State) (k : RegIdx) (b c : Bool) :
    (s.setKey k b).setKey k c = s.setKey k c := by
  simp [State.setKey]

theorem State.setKey_of_eq {s : State} {k : RegIdx} {b : Bool} (h : s.key[k] = b) :
    s.setKey k b = s := by
  subst h
  simp [State.setKey]

/-- A waiting cycle that finds a key pressed ends the wait (spec/40_engine_cycle.md R123). -/
theorem step_ends_wait {s : State} {r k : RegIdx} (hs : s.halt = none) (hw : s.wait = some r)
    (hk : s.key[k] = true) : ∃ t, step s = .next t ∧ t.wait = none := by
  have hne : lowestKey s.key ≠ none := fun h =>
    Bool.false_ne_true ((lowestKey_eq_none.mp h k).symm.trans hk)
  obtain ⟨j, hj⟩ := Option.ne_none_iff_exists'.mp hne
  refine ⟨_, step_waiting hs hw, ?_⟩
  rw [State.tick_wait, State.poll_of_some hj]

/-- Settles O58: both operations are `State.setKey`, and a key that is down ends a wait in the next
cycle. -/
theorem keyOperationsSetOneKey : Obligations.KeyOperationsSetOneKey := by
  intro s k
  simp only [State.pressKey_eq_setKey, State.releaseKey_eq_setKey]
  refine ⟨fun j => ⟨s.key_setKey k j true, s.key_setKey k j false⟩, keepsAllBut_setKey s k true,
    keepsAllBut_setKey s k false, s.setKey_setKey k true true, s.setKey_setKey k false false,
    fun hup => ?_, fun r hs hw => ⟨hw, ?_⟩⟩
  · rw [State.setKey_setKey, State.setKey_of_eq hup]
  · have hdown : (s.setKey k true).key[k] = true := (s.key_setKey k k true).trans (if_pos rfl)
    exact step_ends_wait hs hw hdown

end Sys2Proof.Machine

namespace Sys2Proof.Machine

/-! ### A key wait without a key (spec/70_reset_and_hazards.md R273) -/

/-- A step that answers a next state is the first of any run from it. -/
theorem run_succ_of_step {M : Host.Core} {s t : M.State} (h : M.step s = .next t) (k : Nat) :
    M.run (k + 1) s = M.run k t := by
  rw [Host.Core.run, h]

/-- A waiting cycle that finds no key pressed is a tick (spec/40_engine_cycle.md R123). -/
theorem step_waiting_noKey {s : State} {r : RegIdx} (hs : s.halt = none) (hw : s.wait = some r)
    (hkey : ∀ j : RegIdx, s.key[j] = false) : step s = .next s.tick := by
  rw [step_waiting hs hw, State.poll_of_none (lowestKey_eq_none.mpr hkey)]

/-- A tick neither presses a key nor ends the wait, so every cycle of the run is a tick. -/
theorem run_waiting_noKey (k : Nat) {s : State} {r : RegIdx} (hs : s.halt = none)
    (hw : s.wait = some r) (hkey : ∀ j : RegIdx, s.key[j] = false) :
    Host.Core.run core k s = .next (State.tick^[k] s) := by
  induction k generalizing s with
  | zero => rfl
  | succ k ih =>
    have hstep : step s = .next s.tick := step_waiting_noKey hs hw hkey
    exact (run_succ_of_step (M := core) hstep k).trans
      (ih (s.tick_halt.trans hs) (s.tick_wait.trans hw) (s.tick_key ▸ hkey))

theorem keepsAllBut_ticks (k : Nat) (s : State) :
    KeepsAllBut [.DT, .ST, .audio] s (State.tick^[k] s) := by
  induction k generalizing s with
  | zero => exact .refl _ s
  | succ k ih => exact ((keepsAllBut_tick s).trans (ih s.tick)).mono (by simp)

/-- What each tick lowers by one, down to 0, `k` ticks lower by `k`: each timer is such a count
(spec/40_engine_cycle.md R126, R127). -/
theorem countdown_ticks {timer : State → Nat} (h : ∀ s : State, timer s.tick = timer s - 1)
    (k : Nat) (s : State) : timer (State.tick^[k] s) = timer s - k := by
  induction k generalizing s with
  | zero => rfl
  | succ k ih =>
    rw [Function.iterate_succ_apply, ih, h]
    omega

/-- The tone sounds once if the sound timer reaches 0 within the ticks (spec/40_engine_cycle.md R127). -/
theorem State.ticks_audio (k : Nat) (s : State) :
    (State.tick^[k] s).audio = s.audio ++ tonesWithin s.ST.toNat k := by
  induction k generalizing s with
  | zero =>
    rw [tonesWithin, if_neg (by omega), List.append_nil]
    rfl
  | succ k ih =>
    rw [Function.iterate_succ_apply, ih, s.tick_ST_toNat, s.tick_audio_eq_tonesWithin,
      List.append_assoc, ← tonesWithin_succ]

/-- Settles O52: `k` such cycles are `k` ticks, which write the timers and the trace alone. -/
theorem waitLastsWhileNoKeyIsPressed : Obligations.WaitLastsWhileNoKeyIsPressed :=
  fun k s _ hs hw hkey => ⟨State.tick^[k] s, run_waiting_noKey k hs hw hkey, keepsAllBut_ticks k s,
    countdown_ticks (timer := (·.DT.toNat)) State.tick_DT_toNat k s,
    countdown_ticks (timer := (·.ST.toNat)) State.tick_ST_toNat k s, s.ticks_audio k⟩

end Sys2Proof.Machine

namespace Sys2Proof.Machine

/-! ### load (spec/70_reset_and_hazards.md R262, R263) -/

theorem State.load_of_le {bytes : List Byte} (h : bytes.length ≤ 3584) (s : State) :
    s.load bytes = .ok (s.storeRun 0x200 bytes) := if_pos h

theorem State.load_of_gt {bytes : List Byte} (h : 3584 < bytes.length) (s : State) :
    s.load bytes = .error .loadTooLarge := if_neg (Nat.not_le.mpr h)

/-- A run of stores puts its `j`-th byte at the `j`-th address (spec/20_memory.md R62). -/
theorem State.byteAt_storeRun_add (s : State) (a : Nat) {bs : List Byte} {j : Nat}
    (h : j < bs.length) : (s.storeRun a bs).byteAt (a + j) = bs[j] := by
  rw [State.byteAt_storeRun, if_pos (Nat.le_add_right a j), Nat.add_sub_cancel_left,
    List.getElem?_eq_getElem h, Option.getD_some]

/-- The first fetch after a program's bytes are stored at PC is its first two bytes, the high one
first (spec/20_memory.md R66). -/
theorem fetch?_storeRun_PC {s : State} (h : s.PC.toNat < 4094) (b0 b1 : Byte) (rest : List Byte) :
    (s.storeRun s.PC.toNat (b0 :: b1 :: rest)).fetch? = some (b0 ++ b1) := by
  have h0 : (s.storeRun s.PC.toNat (b0 :: b1 :: rest)).byteAt s.PC.toNat = b0 :=
    s.byteAt_storeRun_add s.PC.toNat (j := 0) (by simp)
  have h1 : (s.storeRun s.PC.toNat (b0 :: b1 :: rest)).byteAt (s.PC.toNat + 1) = b1 :=
    s.byteAt_storeRun_add s.PC.toNat (j := 1) (by simp)
  rw [fetch?_eq_some (s := s.storeRun _ _) h, State.wordAtPC, State.storeRun_PC, h0, h1]

/-- Settles O57: a program that fits is a run of stores at 0x200, where PC stands after reset. -/
theorem loadCopiesTheProgram : Obligations.LoadCopiesTheProgram := by
  refine fun s bytes => ⟨fun h => ?_, fun h => ?_, ?_⟩
  · exact ⟨s.storeRun 0x200 bytes, s.load_of_le h, (s.applyHostOp_load bytes).trans (if_pos h),
      fun j => s.byteAt_storeRun_add 0x200, s.storeRun_keepsBytesOutside 0x200 bytes,
      keepsAllBut_storeRun s 0x200 bytes⟩
  · exact ⟨s.load_of_gt h, (s.applyHostOp_load bytes).trans (if_neg (Nat.not_le.mpr h))⟩
  · rintro b0 b1 rest rfl h
    have hpc : s.hostReset.PC.toNat = 0x200 := rfl
    exact ⟨_, s.hostReset.load_of_le h, hpc ▸ fetch?_storeRun_PC (by omega) b0 b1 rest⟩

end Sys2Proof.Machine
